-- ==== Sys2Proof/Word.lean ====
section
/-! DEFINITION. The words of the Skydance framing engine: bytes and byte sequences (00 R7, R8), the values of type
`Arg` (00 R11), the mode bit (30 R82), and the request a host issues (30 R81) or the reset it applies (70 R240). -/

namespace Sys2Proof

/-- A byte: 8 bits, an unsigned value 0..255, bit 0 the least significant (00 R7). -/
abbrev Byte := BitVec 8

/-- A byte sequence; index 0 is the first byte on the wire (00 R8, 20 R42). -/
abbrev Bytes := List Byte

/-- The 16-bit fields of the SFE: bitmasks, the only numeric fields wider than a byte (20 R43). -/
abbrev Half := BitVec 16

/-- A numeric argument after the port has been read: `Int(v)` or `NonInt` (00 R11). -/
inductive Arg where
  /-- `Int(v)`; the range of `v` is `Arg.fits` of WellFormed.lean. -/
  | int (v : Int)
  /-- `NonInt`: "text, absent value, floating values". -/
  | nonInt
deriving DecidableEq, Repr

/-- The mode of a command operation (30 R82). -/
inductive Mode where
  /-- `.P`, `F = 0`: the payload only. -/
  | payload
  /-- `.F`, `F = 1`: the frame. -/
  | frame
deriving DecidableEq, Repr

/-- One numeric argument as the request port carries it: the tag of 00 R11 and, for an integer, the bits of its
`ARGW` lines (log 9). -/
inductive PortArg where
  /-- Tagged as an integer; bits 0 to `ARGW - 1` of the number are the lines, higher bits do not exist. -/
  | int (bits : Nat)
  /-- Tagged as not an integer. -/
  | nonInt
deriving DecidableEq, Repr

/-- A request: the record `(OPSEL, F, args, in)` of 30 R81. -/
structure Request where
  opsel : Byte
  f     : Bool
  args  : List PortArg
  input : Bytes
deriving DecidableEq, Repr

/-- What the host does to an idle SFE: issue a request (30 R81) or apply reset (70 R240, R251). -/
inductive HostInput where
  | request (r : Request)
  | reset
deriving DecidableEq, Repr

end Sys2Proof
end

