-- ==== Sys2Proof/Config.lean ====
section
/-! DEFINITION. The parameters of an SFE instance (00 R5), plain data, with the spec's defaults and constraints. The
fixed values of 00 R6 are no fields: they stand where the rules use them. -/

namespace Sys2Proof

/-- The closed enumeration of zone types (30 R77). -/
inductive ZoneType where
  | switch | dimmer | cct | rgb | rgbw | rgbcct
deriving DecidableEq, Repr

/-- Which checksum function the instance has (the OPEN parameter `CHK`, 43 R162). What each computes is
`Machine.evalChk`. -/
inductive ChkFn where
  /-- `CHK_BSUM`, the default instance (43 R163). -/
  | bsum
  /-- `CHK_ZERO`, the alternative conforming instance (43 R164). -/
  | zero
  /-- Any other conforming function: its bytes are free values but for the constraint of 43 R162 (b) (log 2). -/
  | other (id : Nat)
deriving DecidableEq, Repr

/-- The free bytes of the checksum functions that the spec leaves open (43 R162): no body, so nothing is known of
any of them (log 2). -/
opaque Config.chkOther : Nat → Bytes → Byte

/-- `ZT_CODE`: the byte code of each zone type (30 R77). -/
structure ZtCode where
  switch : Byte
  dimmer : Byte
  cct    : Byte
  rgb    : Byte
  rgbw   : Byte
  rgbcct : Byte
deriving DecidableEq, Repr

/-- The OPEN parameters of 00 R5, under its names. -/
structure Config where
  /-- `CHK` (43 R162). -/
  chk       : ChkFn
  /-- `BCAST_MASK` (30 R67). -/
  bcastMask : Half
  /-- `RGBW_PAD` (30 R69). -/
  rgbwPad   : Nat
  /-- `GZI_PAD` (30 R70). -/
  gziPad    : Nat
  /-- `MAXPAY` (43 R167, R169). -/
  maxPay    : Nat
  /-- `NZ_MASK_OFF` (30 R75). -/
  nzMaskOff : Nat
  /-- `ZI_TYPE_OFF` (30 R76). -/
  ziTypeOff : Nat
  /-- `ZI_NAME_OFF` (30 R76). -/
  ziNameOff : Nat
  /-- `NAME_LEN` (30 R76). -/
  nameLen   : Nat
  /-- `ZT_CODE` (30 R77). -/
  ztCode    : ZtCode
  /-- `ARGW` (00 R11). -/
  argW      : Nat
deriving DecidableEq, Repr

/-- The default value of every OPEN parameter (00 R5). -/
def Config.default : Config where
  chk       := .bsum
  bcastMask := 0xFFFF#16
  rgbwPad   := 3
  gziPad    := 2
  maxPay    := 255
  nzMaskOff := 12
  ziTypeOff := 12
  ziNameOff := 13
  nameLen   := 16
  ztCode    := { switch := 0x01#8, dimmer := 0x11#8, cct := 0x21#8, rgb := 0x31#8, rgbw := 0x41#8, rgbcct := 0x51#8 }
  argW      := 32

/-- The six codes in the order of the enumeration (30 R77). -/
def ZtCode.codes (t : ZtCode) : Bytes := [t.switch, t.dimmer, t.cct, t.rgb, t.rgbw, t.rgbcct]

/-- The constraints on the OPEN parameters (00 R5, with 92 D7's bound on `MAXPAY`). The constraint on `CHK` is no
clause: every `ChkFn` meets it (`Machine.evalChk`). -/
abbrev Config.Conforming (c : Config) : Prop :=
  max 12 (max (8 + c.rgbwPad) (3 + c.gziPad)) ≤ c.maxPay ∧ 1 ≤ c.nameLen ∧ c.ztCode.codes.Nodup ∧ 10 ≤ c.argW

end Sys2Proof
end

