-- ==== Sys2Proof/Syntax.lean ====
section
/-! DEFINITION. The sixteen operations of 30 R80, one constructor per row of spec/opcode_table.json, each with its mode
(the command operations, 30 R82) and its operands in the order of 30 R80's "operands" column. -/

namespace Sys2Proof

/-- The SFE's instructions: its operations (00 R2, 30 R80). -/
inductive Instr where
  /-- SEQRD: read the sequence counter (41 R121). -/
  | seqrd
  /-- SEQADV: advance the sequence counter (41 R122). -/
  | seqadv
  /-- ENC: frame a payload given by the host (43 R167). -/
  | enc (input : Bytes)
  /-- DEC: validate a received frame and return its payload (43 R170). -/
  | dec (input : Bytes)
  /-- PING: liveness probe (42 R132). -/
  | ping (f : Mode)
  /-- GETNZ: ask for the number of configured zones (42 R133). -/
  | getnz (f : Mode)
  /-- PWRON: switch one zone on (42 R134). -/
  | pwron (f : Mode) (zone : Arg)
  /-- PWROFF: switch one zone off (42 R135). -/
  | pwroff (f : Mode) (zone : Arg)
  /-- MPWRON: switch all zones on (42 R136). -/
  | mpwron (f : Mode)
  /-- MPWROFF: switch all zones off (42 R137). -/
  | mpwroff (f : Mode)
  /-- BRT: set the brightness of one zone (42 R138). -/
  | brt (f : Mode) (zone level : Arg)
  /-- TEMP: set the colour temperature of one zone (42 R139). -/
  | temp (f : Mode) (zone value : Arg)
  /-- RGBW: set the four colour channels of one zone (42 R140). -/
  | rgbw (f : Mode) (zone r g b w : Arg)
  /-- GETZI: ask for the type and name of one zone (42 R141). -/
  | getzi (f : Mode) (zone : Arg)
  /-- RSPNZ: parse a GetNumberOfZones response (44 R192). -/
  | rspnz (input : Bytes)
  /-- RSPZI: parse a GetZoneInfo response (44 R195). -/
  | rspzi (input : Bytes)
deriving DecidableEq, Repr

end Sys2Proof
end

