-- ==== Sys2Proof/WellFormed.lean ====
section
/-! DEFINITION. Which instructions a request port of `ARGW` bits can carry: every integer argument in the range of
00 R11. Byte sequences of any length and content are legal operands (30 R85, 70 R251). -/

namespace Sys2Proof

/-- `v` is in `-2^(ARGW-1) .. 2^(ARGW-1)-1` (00 R11). -/
def Arg.fits (argW : Nat) : Arg → Bool
  | .int v  => decide (-(2 ^ (argW - 1) : Int) ≤ v) && decide (v < 2 ^ (argW - 1))
  | .nonInt => true

/-- The numeric operands of an instruction, in operand order (30 R80). -/
def Instr.operands : Instr → List Arg
  | .seqrd             => []
  | .seqadv            => []
  | .enc _             => []
  | .dec _             => []
  | .ping _            => []
  | .getnz _           => []
  | .pwron _ z         => [z]
  | .pwroff _ z        => [z]
  | .mpwron _          => []
  | .mpwroff _         => []
  | .brt _ z l         => [z, l]
  | .temp _ z v        => [z, v]
  | .rgbw _ z r g b w  => [z, r, g, b, w]
  | .getzi _ z         => [z]
  | .rspnz _           => []
  | .rspzi _           => []

/-- Every numeric operand is a value of type `Arg` at this width (00 R11). -/
def Instr.wellFormed (argW : Nat) (i : Instr) : Bool := i.operands.all (Arg.fits argW)

end Sys2Proof
end

