-- ==== Sys2Proof/Decode.lean ====
section
/-! DEFINITION. From a request to an instruction (30 R80, R81) and back, the little-endian 16-bit fields (00 R9), and
the table's payload patterns (30 R84), which only the host's table check reads (log 11). -/

namespace Sys2Proof

/-- `le16(v)`: low byte first (00 R9). -/
def le16 (v : Half) : Bytes := [v.extractLsb' 0 8, v.extractLsb' 8 8]

/-- `unle16(b0, b1) = b0 + 256*b1` (00 R9). -/
def unle16 (b0 b1 : Byte) : Half := b1 ++ b0

/-! ### Reading a request -/

/-- Why a request selects no operation. -/
inductive DecodeError where
  /-- `OPSEL` is not in 30 R80 (30 R87). -/
  | unassignedOpsel (opsel : Byte)
deriving DecidableEq, Repr

/-- The argument on the port as a value of type `Arg`: the `ARGW` lines read as a signed integer, `sext_N` of 00 R10
(00 R11; log 9). -/
def PortArg.read (argW : Nat) : PortArg → Arg
  | .int bits => .int (BitVec.ofNat argW bits).toInt
  | .nonInt   => .nonInt

/-- Operand `k` of a request; one the host leaves out is `NonInt` (30 R81). -/
def Request.arg (argW : Nat) (r : Request) (k : Nat) : Arg := ((r.args[k]?).getD .nonInt).read argW

/-- The mode bit: `F = 0` is `.P`, `F = 1` is `.F` (30 R82). -/
def Mode.ofBit (f : Bool) : Mode := if f then .frame else .payload

/-- The operation a request asks for (30 R80); fields it does not use are ignored (30 R81). -/
def decode (argW : Nat) (r : Request) : Except DecodeError Instr :=
  match r.opsel.toNat with
  | 0x00 => .ok .seqrd
  | 0x01 => .ok .seqadv
  | 0x02 => .ok (.enc r.input)
  | 0x03 => .ok (.dec r.input)
  | 0x10 => .ok (.ping (Mode.ofBit r.f))
  | 0x11 => .ok (.getnz (Mode.ofBit r.f))
  | 0x12 => .ok (.pwron (Mode.ofBit r.f) (r.arg argW 0))
  | 0x13 => .ok (.pwroff (Mode.ofBit r.f) (r.arg argW 0))
  | 0x14 => .ok (.mpwron (Mode.ofBit r.f))
  | 0x15 => .ok (.mpwroff (Mode.ofBit r.f))
  | 0x16 => .ok (.brt (Mode.ofBit r.f) (r.arg argW 0) (r.arg argW 1))
  | 0x17 => .ok (.temp (Mode.ofBit r.f) (r.arg argW 0) (r.arg argW 1))
  | 0x18 => .ok (.rgbw (Mode.ofBit r.f) (r.arg argW 0) (r.arg argW 1) (r.arg argW 2) (r.arg argW 3) (r.arg argW 4))
  | 0x19 => .ok (.getzi (Mode.ofBit r.f) (r.arg argW 0))
  | 0x20 => .ok (.rspnz r.input)
  | 0x21 => .ok (.rspzi r.input)
  | _    => .error (.unassignedOpsel r.opsel)

/-! ### Writing a request -/

/-- The lines that carry an argument: two's complement on `ARGW` bits (00 R10, R11). -/
def Arg.toPort (argW : Nat) : Arg → PortArg
  | .int v  => .int (BitVec.ofInt argW v).toNat
  | .nonInt => .nonInt

/-- The mode bit of a mode (30 R82). -/
def Mode.bit : Mode → Bool
  | .payload => false
  | .frame   => true

/-- A request for an operation without mode bit and operands. -/
def Request.plain (opsel : Byte) : Request := { opsel := opsel, f := false, args := [], input := [] }

/-- A request for an operation on a byte sequence (30 R81). -/
def Request.bytes (opsel : Byte) (input : Bytes) : Request := { opsel := opsel, f := false, args := [], input := input }

/-- A request for a command operation (30 R81, R82). -/
def Request.command (argW : Nat) (opsel : Byte) (f : Mode) (args : List Arg) : Request :=
  { opsel := opsel, f := f.bit, args := args.map (Arg.toPort argW), input := [] }

/-- The request that asks for an instruction (30 R80, R81). -/
def encode (argW : Nat) : Instr → Request
  | .seqrd            => .plain 0x00#8
  | .seqadv           => .plain 0x01#8
  | .enc input        => .bytes 0x02#8 input
  | .dec input        => .bytes 0x03#8 input
  | .ping f           => .command argW 0x10#8 f []
  | .getnz f          => .command argW 0x11#8 f []
  | .pwron f z        => .command argW 0x12#8 f [z]
  | .pwroff f z       => .command argW 0x13#8 f [z]
  | .mpwron f         => .command argW 0x14#8 f []
  | .mpwroff f        => .command argW 0x15#8 f []
  | .brt f z l        => .command argW 0x16#8 f [z, l]
  | .temp f z v       => .command argW 0x17#8 f [z, v]
  | .rgbw f z r g b w => .command argW 0x18#8 f [z, r, g, b, w]
  | .getzi f z        => .command argW 0x19#8 f [z]
  | .rspnz input      => .bytes 0x20#8 input
  | .rspzi input      => .bytes 0x21#8 input

/-! ### The table's payload patterns -/

/-- A row of spec/opcode_table.json that has a wire form: its selector, its `match` and `mask` over the payload's bytes,
the payload offset of its zone bitmask if it has one, and those of its byte operands (30 R84, R65 to R70). -/
structure WireRow where
  opsel   : Byte
  pat     : Bytes
  mask    : Bytes
  zoneOff : Option Nat
  byteOff : List Nat
deriving DecidableEq, Repr

/-- The ten rows with a wire form, in the table's order, at the default parameters (30 R84). -/
def wireRows : List WireRow := [
  { opsel := 0x10#8, zoneOff := none, byteOff := [],      -- PING
    pat  := [0x80#8, 0x00#8, 0x80#8, 0xE1#8, 0x80#8, 0x00#8, 0x00#8, 0x01#8, 0x00#8, 0x79#8, 0x00#8, 0x00#8],
    mask := [0xFF#8, 0xFF#8, 0xFF#8, 0xFF#8, 0xFF#8, 0xFF#8, 0xFF#8, 0xFF#8, 0xFF#8, 0xFF#8, 0xFF#8, 0xFF#8] },
  { opsel := 0x11#8, zoneOff := none, byteOff := [],      -- GETNZ
    pat  := [0x80#8, 0x00#8, 0x80#8, 0xE1#8, 0x80#8, 0x00#8, 0x00#8, 0x01#8, 0x00#8, 0x79#8, 0x00#8, 0x00#8],
    mask := [0xFF#8, 0xFF#8, 0xFF#8, 0xFF#8, 0xFF#8, 0xFF#8, 0xFF#8, 0xFF#8, 0xFF#8, 0xFF#8, 0xFF#8, 0xFF#8] },
  { opsel := 0x12#8, zoneOff := some 2, byteOff := [],    -- PWRON
    pat  := [0x0A#8, 0x01#8, 0x00#8, 0x00#8, 0x01#8], mask := [0xFF#8, 0xFF#8, 0x00#8, 0x00#8, 0xFF#8] },
  { opsel := 0x13#8, zoneOff := some 2, byteOff := [],    -- PWROFF
    pat  := [0x0A#8, 0x01#8, 0x00#8, 0x00#8, 0x00#8], mask := [0xFF#8, 0xFF#8, 0x00#8, 0x00#8, 0xFF#8] },
  { opsel := 0x14#8, zoneOff := none, byteOff := [],      -- MPWRON
    pat  := [0x0B#8, 0x03#8, 0xFF#8, 0xFF#8, 0x01#8], mask := [0xFF#8, 0xFF#8, 0xFF#8, 0xFF#8, 0xFF#8] },
  { opsel := 0x15#8, zoneOff := none, byteOff := [],      -- MPWROFF
    pat  := [0x0B#8, 0x03#8, 0xFF#8, 0xFF#8, 0x00#8], mask := [0xFF#8, 0xFF#8, 0xFF#8, 0xFF#8, 0xFF#8] },
  { opsel := 0x16#8, zoneOff := some 2, byteOff := [5],   -- BRT
    pat  := [0x07#8, 0x02#8, 0x00#8, 0x00#8, 0x00#8, 0x00#8], mask := [0xFF#8, 0xFF#8, 0x00#8, 0x00#8, 0xFF#8, 0x00#8] },
  { opsel := 0x17#8, zoneOff := some 2, byteOff := [5],   -- TEMP
    pat  := [0x0D#8, 0x02#8, 0x00#8, 0x00#8, 0x00#8, 0x00#8], mask := [0xFF#8, 0xFF#8, 0x00#8, 0x00#8, 0xFF#8, 0x00#8] },
  { opsel := 0x18#8, zoneOff := some 2, byteOff := [4, 5, 6, 7],   -- RGBW
    pat  := [0x01#8, 0x07#8, 0x00#8, 0x00#8, 0x00#8, 0x00#8, 0x00#8, 0x00#8, 0x00#8, 0x00#8, 0x00#8],
    mask := [0xFF#8, 0xFF#8, 0x00#8, 0x00#8, 0x00#8, 0x00#8, 0x00#8, 0x00#8, 0xFF#8, 0xFF#8, 0xFF#8] },
  { opsel := 0x19#8, zoneOff := some 1, byteOff := [],    -- GETZI
    pat  := [0x78#8, 0x00#8, 0x00#8, 0x00#8, 0x00#8], mask := [0xFF#8, 0x00#8, 0x00#8, 0xFF#8, 0xFF#8] } ]

/-- A payload belongs to a row when its length is the row's and `p AND mask = match` (30 R84). -/
def WireRow.matches (row : WireRow) (p : Bytes) : Bool :=
  decide (p.length = row.mask.length) && decide (List.zipWith (· &&& ·) p row.mask = row.pat)

/-- The zone whose bitmask this is (30 R71); a mask that no zone has gives an absent operand (log 11). -/
def zoneOfMask (m : Half) : PortArg :=
  match (List.range 16).find? (fun k => decide (m = 1#16 <<< k)) with
  | some k => .int (k + 1)
  | none   => .nonInt

/-- The operands a row's fields hold in a payload: the zone, then the byte operands (30 R80, R84). -/
def WireRow.args (row : WireRow) (p : Bytes) : List PortArg :=
  (row.zoneOff.toList.map fun o => zoneOfMask (unle16 (p.getD o 0#8) (p.getD (o + 1) 0#8))) ++
    row.byteOff.map fun o => .int (p.getD o 0#8).toNat

/-- The `.P` request of the first row a payload belongs to. PING and GETNZ have the same pattern, so both read as PING
(30 R83, R84; log 11). -/
def wireRequest (p : Bytes) : Option Request :=
  (wireRows.find? (·.matches p)).map fun row =>
    { opsel := row.opsel, f := false, args := row.args p, input := [] }

/-! ### The host's numbering of a table row's bits -/

/-- The `n` bytes of a number, the first byte in its least significant bits. -/
def bytesOfNat : Nat → Nat → Bytes
  | 0, _     => []
  | n + 1, w => BitVec.ofNat 8 w :: bytesOfNat n (w / 256)

/-- The request that a table row's bits stand for: eight bits are an `OPSEL` with every other field empty, more are a
payload (30 R84); bits that belong to no row get an unassigned selector (log 11). -/
def tableRequest (nbits w : Nat) : Request :=
  if nbits ≤ 8 then .plain (BitVec.ofNat 8 w)
  else (wireRequest (bytesOfNat (nbits / 8) w)).getD (.plain 0xFF#8)

/-- The instruction `decode` reads from a table row's bits; the width is the default `ARGW`. -/
def decodeTableWord (nbits w : Nat) : Option Instr :=
  match decode Config.default.argW (tableRequest nbits w) with
  | .ok i    => some i
  | .error _ => none

end Sys2Proof
end

