-- ==== Sys2Proof/Machine/State.lean ====
section
/-! DEFINITION. The state of an SFE instance (10 R20), the result of an operation (00 R12), the reasons a step can
stop, and the state after reset (70 R240, R241). -/

namespace Sys2Proof.Machine

/-- The causes of `E_ARG` (60 R212). -/
inductive ArgCause where
  /-- An argument is `NonInt`. -/
  | aType
  /-- An integer argument is outside its range. -/
  | aRange
  /-- The brightness level is exactly 0. -/
  | aZero
  /-- All four colour components are 0. -/
  | aAllZero
  /-- The payload given to ENC is longer than `MAXPAY`. -/
  | aLen
deriving DecidableEq, Repr

/-- The causes of `E_DEC` (60 R213). -/
inductive DecCause where
  /-- The raw input is shorter than 8 bytes or longer than `MAXPAY + 8`. -/
  | dLen
  /-- The first five bytes are not the preamble. -/
  | dPreamble
  /-- The last byte is not the terminator. -/
  | dTerm
  /-- The checksum byte is wrong. -/
  | dChk
  /-- The payload ends before the fields a parser extracts. -/
  | dShort
  /-- The zone-type byte is not one of the six codes. -/
  | dZtype
  /-- The stripped name is not well-formed UTF-8. -/
  | dUtf8
deriving DecidableEq, Repr

/-- An error: its kind, `E_ARG` or `E_DEC`, and its cause, and nothing else (60 R210, R215). -/
inductive Err where
  /-- `E_ARG`, invalid-argument. -/
  | arg (c : ArgCause)
  /-- `E_DEC`, decoding-failure. -/
  | dec (c : DecCause)
deriving DecidableEq, Repr

/-- The outputs of an operation that succeeds (30 R80, "result on Ok"). -/
inductive Output where
  /-- SEQADV returns nothing. -/
  | nothing
  /-- SEQRD returns a byte value. -/
  | byte (b : Byte)
  /-- A command operation in mode `.P` returns its payload. -/
  | payload (p : Bytes)
  /-- ENC and a command operation in mode `.F` return a frame. -/
  | frame (f : Bytes)
  /-- DEC returns the marker and the payload. -/
  | decoded (marker : Byte) (p : Bytes)
  /-- RSPNZ returns a number. -/
  | number (n : Nat)
  /-- RSPZI returns a zone type and the name's bytes (44 R197; log 12). -/
  | zoneInfo (type : ZoneType) (name : Bytes)
deriving DecidableEq, Repr

/-- The result of an operation: `Ok(outputs)` or `Err(kind, cause)` (00 R12). -/
inductive Result where
  | ok (o : Output)
  | err (e : Err)
deriving DecidableEq, Repr

/-- The reasons the machine could fault: there are none. Every assigned operation from every state returns `Ok` or `Err`
and leaves a state from which every operation may follow (60 R220; log 14). -/
inductive Fault
deriving DecidableEq, Repr

/-- The reasons a step is refused. -/
inductive Refusal where
  /-- `exec` raises it for an instruction that has no meaning yet; safe. No arm does. -/
  | notModelled (mnemonic : String)
  /-- `step` raises it for a request whose `OPSEL` is not in 30 R80, which the SFE gives no meaning to (30 R87,
  60 R220); safe (log 10). -/
  | unassignedOpsel (opsel : Byte)
deriving DecidableEq, Repr

/-- One SFE instance and what the host does to it. -/
structure State where
  /-- `SEQ`, the sequence counter: the only register (10 R20, R21). -/
  seq    : Byte
  /-- The parameters of the instance (00 R5, 10 R29 (a)); no step changes them (log 1). -/
  cfg    : Config
  /-- What the host will do next, oldest first; each step takes one (log 4). -/
  inputs : List HostInput
  /-- The result of the latest operation, as the host sees it; `none` when no result is outstanding (00 R12, 70 R241;
  log 5). -/
  result : Option Result
deriving DecidableEq, Repr

/-- The machine right after reset: `SEQ = 0x00`, no operation in progress, no result outstanding (70 R240, R241), at the
default parameters (00 R5; log 3), with nothing requested yet (log 4). -/
def State.reset : State where
  seq    := 0x00#8
  cfg    := Config.default
  inputs := []
  result := none

end Sys2Proof.Machine
end

