-- ==== Sys2Proof/Machine/Ops.lean ====
section
/-! DEFINITION. The named operations over the state: the advance, delivering a result, raising an error, the checksum
and the envelope (43 R161 to R169), and what the host does to an idle SFE (70 R240, 60 R226). -/

namespace Sys2Proof.Machine

/-! ### The sequence counter and the result -/

/-- `SEQ <- (SEQ + 1) mod 256` (10 R23, 41 R122, R123). -/
def State.advance (s : State) : State := { s with seq := s.seq + 1#8 }

/-- The state with a result for the host to take (00 R12; log 5). -/
def State.finish (s : State) (r : Result) : State := { s with result := some r }

/-- `return Ok(...)` (00 R10). -/
def respond (o : Output) (s : State) : Host.Outcome State Fault Refusal := .next (s.finish (.ok o))

/-- `raise`: the error is the result of the operation; nothing else is written, nothing is saved, control goes nowhere
(00 R10, 60 R218, R220). There is no return from it (60 R219). -/
def raise (e : Err) (s : State) : Host.Outcome State Fault Refusal := .next (s.finish (.err e))

/-- The end of DEC, RSPNZ and RSPZI, which write no state (43 R170, 44 R191): the outputs, or the error. -/
def answer (r : Except Err Output) (s : State) : Host.Outcome State Fault Refusal :=
  match r with
  | .ok o    => respond o s
  | .error e => raise e s

/-! ### The checksum -/

/-- The literal payload of Ping and GetNumberOfZones (30 R65). -/
def pingPayload : Bytes :=
  [0x80#8, 0x00#8, 0x80#8, 0xE1#8, 0x80#8, 0x00#8, 0x00#8, 0x01#8, 0x00#8, 0x79#8, 0x00#8, 0x00#8]

/-- `CHK_BSUM`: the accumulator `CSUM` starts at `0x25` in every computation (43 R163, 10 R30). -/
def chkBsum (s : Bytes) : Byte := s.foldl (· + ·) 0x25#8

/-- The checksum function of an instance. Each meets `CHK(00, PING_PAYLOAD) = 00` (43 R162 (b)): a free function by
taking that value at that one argument (log 2). -/
def evalChk (k : ChkFn) (s : Bytes) : Byte :=
  match k with
  | .bsum     => chkBsum s
  | .zero     => 0x00#8
  | .other id => if s = 0x00#8 :: pingPayload then 0x00#8 else Config.chkOther id s

/-- The checksum byte of a frame: over the marker and the payload, nothing else (43 R161). -/
def checksum (c : Config) (marker : Byte) (p : Bytes) : Byte := evalChk c.chk (marker :: p)

/-! ### The envelope -/

/-- `PREAMBLE` (00 R5, 30 R60). -/
def preamble : Bytes := [0x55#8, 0xAA#8, 0x5A#8, 0xA5#8, 0x7E#8]

/-- `TERM` (00 R5, 30 R60). -/
def term : Byte := 0x7E#8

/-- The layout of a frame (30 R60). -/
def frameBytes (c : Config) (marker : Byte) (p : Bytes) : Bytes :=
  preamble ++ [marker] ++ p ++ [checksum c marker p, term]

/-- `FRAME(p)`: the marker is `SEQ` before the advance, and `SEQ` advances once (43 R166, 30 R63). -/
def buildFrame (p : Bytes) (s : State) : Host.Outcome State Fault Refusal :=
  respond (.frame (frameBytes s.cfg s.seq p)) s.advance

/-- `DELIVER(p, F)` (42 R131). -/
def deliver (f : Mode) (p : Bytes) (s : State) : Host.Outcome State Fault Refusal :=
  match f with
  | .payload => respond (.payload p) s
  | .frame   => buildFrame p s

/-- `UNFRAME(raw)`: length, preamble, terminator, checksum, in this order (43 R169, 60 R217 (b)). -/
def unframe (c : Config) (raw : Bytes) : Except DecCause (Byte × Bytes) :=
  let n := raw.length
  if n < 8 ∨ c.maxPay + 8 < n then .error .dLen
  else if raw.take 5 ≠ preamble then .error .dPreamble
  else if raw.getD (n - 1) 0#8 ≠ term then .error .dTerm
  else
    let mk := raw.getD 5 0#8
    let p := (raw.drop 6).take (n - 8)
    if checksum c mk p ≠ raw.getD (n - 2) 0#8 then .error .dChk
    else .ok (mk, p)

/-! ### The host's side of a step -/

/-- The next thing the host does, taken off the state (20 R50: requests take effect in the order they are issued). -/
def State.takeInput (s : State) : Option (HostInput × State) :=
  match s.inputs with
  | []        => none
  | x :: rest => some (x, { s with inputs := rest })

/-- Nothing is issued: the SFE is idle and holds `SEQ` (60 R226; log 21). -/
def idle (s : State) : Host.Outcome State Fault Refusal := .next s

/-- Reset: `SEQ = 0x00` and no result outstanding; the parameters are not affected (70 R240, R241; log 6). -/
def applyReset (s : State) : Host.Outcome State Fault Refusal := .next { s with seq := 0x00#8, result := none }

/-- A request that selects no operation is refused (30 R87, 60 R220; log 10). -/
def refuse (e : DecodeError) : Host.Outcome State Fault Refusal :=
  match e with
  | .unassignedOpsel b => .refused (.unassignedOpsel b)

/-- Place a request where the next step takes it. -/
def State.issue (s : State) (r : Request) : State := { s with inputs := .request r :: s.inputs }

end Sys2Proof.Machine
end

