-- ==== Sys2Proof/Machine/Codec.lean ====
section
/-! DEFINITION. The frame codec's operations ENC and DEC (43). -/

namespace Sys2Proof.Machine

/-- ENC frames any payload of at most `MAXPAY` bytes; a longer one is `E_ARG/A_LEN` (43 R167). -/
def execEnc (input : Bytes) (s : State) : Host.Outcome State Fault Refusal :=
  if s.cfg.maxPay < input.length then raise (.arg .aLen) s else buildFrame input s

/-- The output of DEC: the marker and the payload of a frame that passes `UNFRAME` (43 R170). -/
def decodeFrame (c : Config) (raw : Bytes) : Except Err Output :=
  match unframe c raw with
  | .ok (mk, p) => .ok (.decoded mk p)
  | .error e    => .error (.dec e)

/-- DEC neither reads nor advances `SEQ` (43 R170). -/
def execDec (input : Bytes) (s : State) : Host.Outcome State Fault Refusal := answer (decodeFrame s.cfg input) s

end Sys2Proof.Machine
end

