-- ==== Sys2Proof/Machine/Operands.lean ====
section
/-! DEFINITION. The operand forms: the validators (40 R100 to R109), the payload formats of the commands (30 R64 to R72),
and the fields of a response (30 R75 to R77, 44 R192 to R197). -/

namespace Sys2Proof.Machine

/-! ### Validators -/

/-- `V(a, lo, hi)`: the type before the range, on the mathematical value; a legal value is returned unchanged (40 R100,
R101). -/
def validate (lo hi : Int) (a : Arg) : Except ArgCause Int :=
  match a with
  | .nonInt => .error .aType
  | .int v  => if v < lo ∨ hi < v then .error .aRange else .ok v

/-- `VZONE` (40 R102). -/
def vZone (a : Arg) : Except ArgCause Int := validate 1 16 a

/-- `VBRT`: zero has a cause of its own, before the range (40 R103, 90 C7). -/
def vBrt (a : Arg) : Except ArgCause Int :=
  match a with
  | .nonInt => .error .aType
  | .int v  => if v = 0 then .error .aZero else if v < 1 ∨ 255 < v then .error .aRange else .ok v

/-- `VTEMP` (40 R104). -/
def vTemp (a : Arg) : Except ArgCause Int := validate 0 255 a

/-- `VCOMP`; the label changes nothing and is not carried (40 R105, 60 R215). -/
def vComp (a : Arg) : Except ArgCause Int := validate 0 255 a

/-- `VRGBW`: red, green, blue, white in this order, then the all-zero rule (40 R106). -/
def vRgbw (r g b w : Arg) : Except ArgCause (Int × Int × Int × Int) := do
  let r ← vComp r
  let g ← vComp g
  let b ← vComp b
  let w ← vComp w
  if r = 0 ∧ g = 0 ∧ b = 0 ∧ w = 0 then .error .aAllZero else .ok (r, g, b, w)

/-! ### Payload formats -/

/-- `le16(1 << (z-1))` of a validated zone (30 R71). -/
def zoneField (z : Int) : Bytes := le16 (1#16 <<< (z - 1).toNat)

/-- A validated byte operand, written unsigned (30 R72). -/
def byteField (v : Int) : Byte := BitVec.ofInt 8 v

/-- `zeros(n)` (00 R8). -/
def zeros (n : Nat) : Bytes := List.replicate n 0x00#8

/-- Format PWR: `0A 01`, the zone bitmask, the on/off byte (30 R66). -/
def powerPayload (onOff : Byte) (zone : Arg) : Except ArgCause Bytes := do
  let z ← vZone zone
  .ok ([0x0A#8, 0x01#8] ++ zoneField z ++ [onOff])

/-- Format MPWR: `0B 03`, the broadcast bitmask, the on/off byte (30 R67). -/
def masterPayload (c : Config) (onOff : Byte) : Bytes := [0x0B#8, 0x03#8] ++ le16 c.bcastMask ++ [onOff]

/-- Format LVL: the wire opcode, `02`, the zone bitmask, `00`, the byte a validator returns (30 R68). -/
def levelPayload (opcode : Byte) (v : Arg → Except ArgCause Int) (zone value : Arg) : Except ArgCause Bytes := do
  let z ← vZone zone
  let l ← v value
  .ok ([opcode, 0x02#8] ++ zoneField z ++ [0x00#8, byteField l])

/-- Format RGBW: `01 07`, the zone bitmask, the four components, `RGBW_PAD` zeros (30 R69). -/
def rgbwPayload (c : Config) (zone r g b w : Arg) : Except ArgCause Bytes := do
  let z ← vZone zone
  let (r, g, b, w) ← vRgbw r g b w
  .ok ([0x01#8, 0x07#8] ++ zoneField z ++ [byteField r, byteField g, byteField b, byteField w] ++ zeros c.rgbwPad)

/-- Format GZI: `78`, the zone bitmask, `GZI_PAD` zeros (30 R70). -/
def zoneInfoPayload (c : Config) (zone : Arg) : Except ArgCause Bytes := do
  let z ← vZone zone
  .ok ([0x78#8] ++ zoneField z ++ zeros c.gziPad)

/-! ### Fields of a response -/

/-- `popcount16` (44 R193). -/
def popcount16 (v : Half) : Nat := (List.range 16).countP fun i => v.getLsbD i

/-- The zone type whose code a byte is, if there is one; the codes are distinct in a conforming configuration (30 R77,
44 R199; log 15). -/
def zoneTypeOf (t : ZtCode) (code : Byte) : Option ZoneType :=
  if code = t.switch then some .switch
  else if code = t.dimmer then some .dimmer
  else if code = t.cct then some .cct
  else if code = t.rgb then some .rgb
  else if code = t.rgbw then some .rgbw
  else if code = t.rgbcct then some .rgbcct
  else none

/-- The fill bytes, null and space (44 R194). -/
def isFill (b : Byte) : Bool := b == 0x00#8 || b == 0x20#8

/-- `STRIP(f)`: fill bytes are removed from the right (44 R194). -/
def strip (f : Bytes) : Bytes := (f.reverse.dropWhile isFill).reverse

/-! ### UTF-8 -/

/-- A row of the table of 44 R196: the range of the first byte, the ranges of the bytes after it, and the bits of the
first byte that the code point takes (44 R197). -/
structure Utf8Row where
  lo    : Nat
  hi    : Nat
  conts : List (Nat × Nat)
  bits  : Nat
deriving DecidableEq, Repr

/-- The table of well-formed byte sequences (44 R196; log 20). -/
def utf8Rows : List Utf8Row := [
  { lo := 0x00, hi := 0x7F, conts := [], bits := 7 },
  { lo := 0xC2, hi := 0xDF, conts := [(0x80, 0xBF)], bits := 5 },
  { lo := 0xE0, hi := 0xE0, conts := [(0xA0, 0xBF), (0x80, 0xBF)], bits := 4 },
  { lo := 0xE1, hi := 0xEC, conts := [(0x80, 0xBF), (0x80, 0xBF)], bits := 4 },
  { lo := 0xED, hi := 0xED, conts := [(0x80, 0x9F), (0x80, 0xBF)], bits := 4 },
  { lo := 0xEE, hi := 0xEF, conts := [(0x80, 0xBF), (0x80, 0xBF)], bits := 4 },
  { lo := 0xF0, hi := 0xF0, conts := [(0x90, 0xBF), (0x80, 0xBF), (0x80, 0xBF)], bits := 3 },
  { lo := 0xF1, hi := 0xF3, conts := [(0x80, 0xBF), (0x80, 0xBF), (0x80, 0xBF)], bits := 3 },
  { lo := 0xF4, hi := 0xF4, conts := [(0x80, 0x8F), (0x80, 0xBF), (0x80, 0xBF)], bits := 3 } ]

/-- A byte lies in a range of the table, both ends included. -/
def inRange (b : Byte) (lo hi : Nat) : Bool := decide (lo ≤ b.toNat) && decide (b.toNat ≤ hi)

/-- The row a first byte opens (44 R196). -/
def utf8Row (b : Byte) : Option Utf8Row := utf8Rows.find? fun row => inRange b row.lo row.hi

/-- The bytes continue a sequence whose next bytes must lie in `pending`, and then hold whole sequences only. -/
def utf8Scan (pending : List (Nat × Nat)) (s : Bytes) : Bool :=
  match s with
  | []        => pending.isEmpty
  | b :: rest =>
    match pending with
    | []               => match utf8Row b with
                          | some row => utf8Scan row.conts rest
                          | none     => false
    | (lo, hi) :: more => inRange b lo hi && utf8Scan more rest

/-- `UTF8_WELLFORMED(s)` (44 R196). -/
def utf8WellFormed (s : Bytes) : Bool := utf8Scan [] s

/-- The code points of the rest of a name: `pending` are the ranges still due in the open sequence, `acc` the bits it
has given so far (44 R197). -/
def textScan (pending : List (Nat × Nat)) (acc : Nat) (s : Bytes) : Option (List Nat) :=
  match s with
  | []        => if pending.isEmpty then some [] else none
  | b :: rest =>
    match pending with
    | []               => match utf8Row b with
                          | none     => none
                          | some row =>
                            let acc := b.toNat % 2 ^ row.bits
                            if row.conts.isEmpty then (textScan [] 0 rest).map (acc :: ·)
                            else textScan row.conts acc rest
    | (lo, hi) :: more =>
      if inRange b lo hi then
        let acc := acc * 64 + b.toNat % 64
        if more.isEmpty then (textScan [] 0 rest).map (acc :: ·) else textScan more acc rest
      else none

/-- A name as text: its code points, or nothing where it is not well-formed UTF-8 (44 R197; log 12). -/
def nameText (name : Bytes) : Option (List Nat) := textScan [] 0 name

end Sys2Proof.Machine
end

