-- ==== Sys2Proof/Machine/Command.lean ====
section
/-! DEFINITION. The ten command operations (42): validate, marshal, deliver (42 R130). -/

namespace Sys2Proof.Machine

/-- The common shape: a failed validation ends the operation with its cause and nothing else happens; a marshalled
payload is delivered (42 R130, 40 R108). -/
def command (f : Mode) (payload : Except ArgCause Bytes) (s : State) : Host.Outcome State Fault Refusal :=
  match payload with
  | .error c => raise (.arg c) s
  | .ok p    => deliver f p s

/-- PING (42 R132). -/
def execPing (f : Mode) (s : State) : Host.Outcome State Fault Refusal := command f (.ok pingPayload) s

/-- GETNZ: exactly the bytes of PING (42 R133). -/
def execGetnz (f : Mode) (s : State) : Host.Outcome State Fault Refusal := command f (.ok pingPayload) s

/-- PWRON (42 R134). -/
def execPwron (f : Mode) (zone : Arg) (s : State) : Host.Outcome State Fault Refusal :=
  command f (powerPayload 0x01#8 zone) s

/-- PWROFF (42 R135). -/
def execPwroff (f : Mode) (zone : Arg) (s : State) : Host.Outcome State Fault Refusal :=
  command f (powerPayload 0x00#8 zone) s

/-- MPWRON (42 R136). -/
def execMpwron (f : Mode) (s : State) : Host.Outcome State Fault Refusal :=
  command f (.ok (masterPayload s.cfg 0x01#8)) s

/-- MPWROFF (42 R137). -/
def execMpwroff (f : Mode) (s : State) : Host.Outcome State Fault Refusal :=
  command f (.ok (masterPayload s.cfg 0x00#8)) s

/-- BRT (42 R138). -/
def execBrt (f : Mode) (zone level : Arg) (s : State) : Host.Outcome State Fault Refusal :=
  command f (levelPayload 0x07#8 vBrt zone level) s

/-- TEMP (42 R139). -/
def execTemp (f : Mode) (zone value : Arg) (s : State) : Host.Outcome State Fault Refusal :=
  command f (levelPayload 0x0D#8 vTemp zone value) s

/-- RGBW (42 R140). -/
def execRgbw (f : Mode) (zone r g b w : Arg) (s : State) : Host.Outcome State Fault Refusal :=
  command f (rgbwPayload s.cfg zone r g b w) s

/-- GETZI (42 R141). -/
def execGetzi (f : Mode) (zone : Arg) (s : State) : Host.Outcome State Fault Refusal :=
  command f (zoneInfoPayload s.cfg zone) s

end Sys2Proof.Machine
end

