-- ==== Sys2Proof/Machine/Response.lean ====
section
/-! DEFINITION. The response parsers RSPNZ and RSPZI (44): the envelope first, then the fields (44 R191). -/

namespace Sys2Proof.Machine

/-- The count of zones in a payload: the set bits of the 16-bit field at `NZ_MASK_OFF` (44 R192, 30 R75). -/
def zoneCount (c : Config) (p : Bytes) : Except DecCause Output :=
  if p.length < c.nzMaskOff + 2 then .error .dShort
  else .ok (.number (popcount16 (unle16 (p.getD c.nzMaskOff 0#8) (p.getD (c.nzMaskOff + 1) 0#8))))

/-- The name field of a payload (30 R76). -/
def nameField (c : Config) (p : Bytes) : Bytes := (p.drop c.ziNameOff).take c.nameLen

/-- The zone type and name in a payload: length, type, name, in this order (44 R195, 60 R217 (c)). -/
def zoneInfo (c : Config) (p : Bytes) : Except DecCause Output :=
  if p.length < max (c.ziTypeOff + 1) (c.ziNameOff + c.nameLen) then .error .dShort
  else
    match zoneTypeOf c.ztCode (p.getD c.ziTypeOff 0#8) with
    | none      => .error .dZtype
    | some type =>
      let name := strip (nameField c p)
      if utf8WellFormed name then .ok (.zoneInfo type name) else .error .dUtf8

/-- A parser validates the envelope, passes its failure on unchanged, and only then extracts (44 R191). -/
def parseResponse (c : Config) (extract : Config → Bytes → Except DecCause Output) (raw : Bytes) : Except Err Output :=
  match unframe c raw with
  | .error e    => .error (.dec e)
  | .ok (_, p) =>
    match extract c p with
    | .error e => .error (.dec e)
    | .ok o    => .ok o

/-- RSPNZ (44 R192). -/
def execRspnz (input : Bytes) (s : State) : Host.Outcome State Fault Refusal :=
  answer (parseResponse s.cfg zoneCount input) s

/-- RSPZI (44 R195). -/
def execRspzi (input : Bytes) (s : State) : Host.Outcome State Fault Refusal :=
  answer (parseResponse s.cfg zoneInfo input) s

end Sys2Proof.Machine
end

