-- ==== Sys2Proof/Machine/Sequence.lean ====
section
/-! DEFINITION. The sequence-counter operations SEQRD and SEQADV (41). -/

namespace Sys2Proof.Machine

/-- SEQRD returns `SEQ` and writes nothing (41 R121, 10 R24). -/
def execSeqrd (s : State) : Host.Outcome State Fault Refusal := respond (.byte s.seq) s

/-- SEQADV advances `SEQ`, which wraps silently (41 R122). -/
def execSeqadv (s : State) : Host.Outcome State Fault Refusal := respond .nothing s.advance

end Sys2Proof.Machine
end

