-- ==== Sys2Proof/Machine/Dispatch.lean ====
section
/-! DEFINITION. The meaning of every operation of 30 R80, one arm each. -/

namespace Sys2Proof.Machine

def exec (i : Instr) (s : State) : Host.Outcome State Fault Refusal :=
  match i with
  | .seqrd => Sys2Proof.Machine.execSeqrd s
  | .seqadv => Sys2Proof.Machine.execSeqadv s
  | .enc input => Sys2Proof.Machine.execEnc input s
  | .dec input => Sys2Proof.Machine.execDec input s
  | .ping f => Sys2Proof.Machine.execPing f s
  | .getnz f => Sys2Proof.Machine.execGetnz f s
  | .pwron f zone => Sys2Proof.Machine.execPwron f zone s
  | .pwroff f zone => Sys2Proof.Machine.execPwroff f zone s
  | .mpwron f => Sys2Proof.Machine.execMpwron f s
  | .mpwroff f => Sys2Proof.Machine.execMpwroff f s
  | .brt f zone level => Sys2Proof.Machine.execBrt f zone level s
  | .temp f zone value => Sys2Proof.Machine.execTemp f zone value s
  | .rgbw f zone r g b w => Sys2Proof.Machine.execRgbw f zone r g b w s
  | .getzi f zone => Sys2Proof.Machine.execGetzi f zone s
  | .rspnz input => Sys2Proof.Machine.execRspnz input s
  | .rspzi input => Sys2Proof.Machine.execRspzi input s

end Sys2Proof.Machine
end

