-- ==== Sys2Proof/Machine/Step.lean ====
section
/-! DEFINITION. One step: the SFE does the next thing the host asks of it, a whole operation (20 R47, R50) or a reset
(70 R240), or is idle. -/

namespace Sys2Proof.Machine

/-- One step. -/
def step (s : State) : Host.Outcome State Fault Refusal :=
  match s.takeInput with
  | none                  => idle s
  | some (.reset, s')     => applyReset s'
  | some (.request r, s') =>
    match decode s.cfg.argW r with
    | .ok i    => exec i s'
    | .error e => refuse e

/-- The state with the request that a table row's bits stand for issued next (log 11). -/
def State.withFetchWord (s : State) (nbits w : Nat) : State := s.issue (tableRequest nbits w)

end Sys2Proof.Machine
end

