-- ==== Sys2Proof/Machine/Flags.lean ====
section
/-! DEFINITION. The SFE keeps no flags (10 R27): the status of an operation is part of its result. This file gives the
status and cause codes of a result (60 R211 to R213). -/

namespace Sys2Proof.Machine

/-- The two-bit status code; 3 is never produced (60 R211). -/
def Result.status : Result → BitVec 2
  | .ok _         => 0#2
  | .err (.arg _) => 1#2
  | .err (.dec _) => 2#2

/-- The code of a cause of `E_ARG` (60 R212). -/
def ArgCause.code : ArgCause → BitVec 3
  | .aType    => 1#3
  | .aRange   => 2#3
  | .aZero    => 3#3
  | .aAllZero => 4#3
  | .aLen     => 5#3

/-- The code of a cause of `E_DEC` (60 R213). -/
def DecCause.code : DecCause → BitVec 3
  | .dLen      => 1#3
  | .dPreamble => 2#3
  | .dTerm     => 3#3
  | .dChk      => 4#3
  | .dShort    => 5#3
  | .dZtype    => 6#3
  | .dUtf8     => 7#3

/-- The three-bit cause field; 0 stands beside `OK` only (60 R211). -/
def Result.causeCode : Result → BitVec 3
  | .ok _         => 0#3
  | .err (.arg c) => c.code
  | .err (.dec c) => c.code

end Sys2Proof.Machine
end

