-- ==== Sys2Proof/Safety.lean ====
section
/-! DEFINITION. The terms the claims use: which results are legal, the invariant of a state, the classes of operations
that the spec's tables name (10 R23, 60 R214), and runs of several operations (20 R50). -/

namespace Sys2Proof.Machine

/-! ### Legal results -/

/-- A legal output. A payload has at most `MAXPAY` bytes and a frame passes `UNFRAME`, so that no partial or malformed
frame is observable (20 R47); a number is 0..16 (44 R192); a name has at most `NAME_LEN` bytes, is well-formed UTF-8,
and has no fill byte at its right end (44 R194, R195). -/
def Output.Legal (c : Config) : Output → Prop
  | .nothing         => True
  | .byte _          => True
  | .payload p       => p.length ≤ c.maxPay
  | .frame f         => ∃ mk p, unframe c f = .ok (mk, p)
  | .decoded _ p     => p.length ≤ c.maxPay
  | .number n        => n ≤ 16
  | .zoneInfo _ name => name.length ≤ c.nameLen ∧ utf8WellFormed name = true ∧ name.getLast?.all (fun b => !isFill b) = true

/-- A legal result: an error carries a kind and a cause and nothing that could be illegal (60 R215). -/
def Result.Legal (c : Config) : Result → Prop
  | .ok o  => o.Legal c
  | .err _ => True

/-- The invariant: the parameters meet the constraints of 00 R5, and an outstanding result is legal. -/
def State.Inv (s : State) : Prop := s.cfg.Conforming ∧ ∀ r, s.result = some r → r.Legal s.cfg

/-! ### Classes of operations -/

/-- The mode of a command operation; the other six have none (30 R80, R82). -/
def modeOf : Instr → Option Mode
  | .ping f | .getnz f | .pwron f _ | .pwroff f _ | .mpwron f | .mpwroff f | .brt f _ _ | .temp f _ _
  | .rgbw f _ _ _ _ _ | .getzi f _ => some f
  | .seqrd | .seqadv | .enc _ | .dec _ | .rspnz _ | .rspzi _ => none

/-- The same command operation in another mode; an operation without a mode as it is. -/
def inMode (m : Mode) : Instr → Instr
  | .seqrd            => .seqrd
  | .seqadv           => .seqadv
  | .enc input        => .enc input
  | .dec input        => .dec input
  | .ping _           => .ping m
  | .getnz _          => .getnz m
  | .pwron _ z        => .pwron m z
  | .pwroff _ z       => .pwroff m z
  | .mpwron _         => .mpwron m
  | .mpwroff _        => .mpwroff m
  | .brt _ z l        => .brt m z l
  | .temp _ z v       => .temp m z v
  | .rgbw _ z r g b w => .rgbw m z r g b w
  | .getzi _ z        => .getzi m z
  | .rspnz input      => .rspnz input
  | .rspzi input      => .rspzi input

/-- The operations whose success advances `SEQ`: SEQADV, ENC, and each command operation in mode `.F` (10 R23). -/
def advances : Instr → Bool
  | .seqadv | .enc _ => true
  | i                => decide (modeOf i = some .frame)

/-- Which operation can return which error (60 R214). -/
def errorsOf : Instr → List Err
  | .seqrd | .seqadv | .ping _ | .getnz _ | .mpwron _ | .mpwroff _ => []
  | .pwron _ _ | .pwroff _ _ | .getzi _ _ => [.arg .aType, .arg .aRange]
  | .brt _ _ _ => [.arg .aType, .arg .aRange, .arg .aZero]
  | .temp _ _ _ => [.arg .aType, .arg .aRange]
  | .rgbw _ _ _ _ _ _ => [.arg .aType, .arg .aRange, .arg .aAllZero]
  | .enc _ => [.arg .aLen]
  | .dec _ => [.dec .dLen, .dec .dPreamble, .dec .dTerm, .dec .dChk]
  | .rspnz _ => [.dec .dLen, .dec .dPreamble, .dec .dTerm, .dec .dChk, .dec .dShort]
  | .rspzi _ =>
    [.dec .dLen, .dec .dPreamble, .dec .dTerm, .dec .dChk, .dec .dShort, .dec .dZtype, .dec .dUtf8]

/-- The result is `Ok`. -/
def Result.isOk : Result → Bool
  | .ok _  => true
  | .err _ => false

/-- The frame a result carries. -/
def Result.frame? : Result → Option Bytes
  | .ok (.frame f) => some f
  | .ok .nothing | .ok (.byte _) | .ok (.payload _) | .ok (.decoded _ _) | .ok (.number _) | .ok (.zoneInfo _ _)
  | .err _ => none

/-! ### Next states, written out -/

/-- The state after a command has failed with an error: the error is the result and nothing else changes (60 R218). -/
def failed (e : Err) (s : State) : State := { s with result := some (.err e) }

/-- A frame, byte by byte (30 R60, 43 R161). -/
def frameOf (k : ChkFn) (marker : Byte) (p : Bytes) : Bytes :=
  [0x55#8, 0xAA#8, 0x5A#8, 0xA5#8, 0x7E#8] ++ [marker] ++ p ++ [evalChk k (marker :: p)] ++ [0x7E#8]

/-- The state after a payload has been delivered: mode `.P` returns it, mode `.F` returns its frame with the old `SEQ` as
marker and advances `SEQ` once (42 R131, 43 R166). -/
def delivered (f : Mode) (p : Bytes) (s : State) : State :=
  match f with
  | .payload => { s with result := some (.ok (.payload p)) }
  | .frame   =>
    { s with seq    := BitVec.ofNat 8 ((s.seq.toNat + 1) % 256)
             result := some (.ok (.frame (frameOf s.cfg.chk s.seq p))) }

/-- The two bytes of the bitmask of zone `z`: `2^(z-1)`, the low byte first (30 R71). -/
def zoneBytes (z : Nat) : Bytes := [BitVec.ofNat 8 (2 ^ (z - 1) % 256), BitVec.ofNat 8 (2 ^ (z - 1) / 256)]

/-- The cause of a colour component that fails its validation (40 R105). -/
def componentCause : Arg → Option ArgCause
  | .nonInt => some .aType
  | .int v  => if 0 ≤ v ∧ v ≤ 255 then none else some .aRange

/-! ### Requests -/

/-- The selectors of 30 R80. -/
def assignedSelectors : Bytes :=
  [0x00#8, 0x01#8, 0x02#8, 0x03#8, 0x10#8, 0x11#8, 0x12#8, 0x13#8, 0x14#8, 0x15#8, 0x16#8, 0x17#8, 0x18#8, 0x19#8,
   0x20#8, 0x21#8]

/-- The selectors whose operation has a mode bit (30 R80). -/
def modeSelectors : Bytes :=
  [0x10#8, 0x11#8, 0x12#8, 0x13#8, 0x14#8, 0x15#8, 0x16#8, 0x17#8, 0x18#8, 0x19#8]

/-- The selectors whose operation takes a byte sequence (30 R80). -/
def bytesSelectors : Bytes := [0x02#8, 0x03#8, 0x20#8, 0x21#8]

/-- How many numeric operands the operation of a selector has (30 R80). -/
def operandCount (opsel : Byte) : Nat :=
  if opsel ∈ [0x12#8, 0x13#8, 0x19#8] then 1
  else if opsel ∈ [0x16#8, 0x17#8] then 2
  else if opsel = 0x18#8 then 5
  else 0

/-! ### Zone types and text -/

/-- `ZT_CODE` (30 R77). -/
def zoneCode (t : ZtCode) : ZoneType → Byte
  | .switch => t.switch
  | .dimmer => t.dimmer
  | .cct    => t.cct
  | .rgb    => t.rgb
  | .rgbw   => t.rgbw
  | .rgbcct => t.rgbcct

/-- A byte in a range, both ends included. -/
abbrev Within (lo : Nat) (b : Byte) (hi : Nat) : Prop := lo ≤ b.toNat ∧ b.toNat ≤ hi

/-- One row of the table of 44 R196: the encoding of one character. -/
def Utf8Sequence : Bytes → Prop
  | [b0]             => Within 0x00 b0 0x7F
  | [b0, b1]         => Within 0xC2 b0 0xDF ∧ Within 0x80 b1 0xBF
  | [b0, b1, b2]     =>
    ((b0 = 0xE0#8 ∧ Within 0xA0 b1 0xBF) ∨ (Within 0xE1 b0 0xEC ∧ Within 0x80 b1 0xBF) ∨
      (b0 = 0xED#8 ∧ Within 0x80 b1 0x9F) ∨ (Within 0xEE b0 0xEF ∧ Within 0x80 b1 0xBF)) ∧ Within 0x80 b2 0xBF
  | [b0, b1, b2, b3] =>
    ((b0 = 0xF0#8 ∧ Within 0x90 b1 0xBF) ∨ (Within 0xF1 b0 0xF3 ∧ Within 0x80 b1 0xBF) ∨
      (b0 = 0xF4#8 ∧ Within 0x80 b1 0x8F)) ∧ Within 0x80 b2 0xBF ∧ Within 0x80 b3 0xBF
  | _                => False

/-- The code point of one character (44 R197). -/
def codePoint : Bytes → Nat
  | [b0]             => b0.toNat
  | [b0, b1]         => ((b0.extractLsb' 0 5).toNat <<< 6) ||| (b1.extractLsb' 0 6).toNat
  | [b0, b1, b2]     =>
    ((b0.extractLsb' 0 4).toNat <<< 12) ||| ((b1.extractLsb' 0 6).toNat <<< 6) ||| (b2.extractLsb' 0 6).toNat
  | [b0, b1, b2, b3] =>
    ((b0.extractLsb' 0 3).toNat <<< 18) ||| ((b1.extractLsb' 0 6).toNat <<< 12) |||
      ((b2.extractLsb' 0 6).toNat <<< 6) ||| (b3.extractLsb' 0 6).toNat
  | _                => 0

/-! ### Several operations -/

/-- The results of a list of operations, each run from the state the one before it left, and the last state (20 R50); a
step that is no next state ends the run. -/
def runAll (is : List Instr) (s : State) : List Result × State :=
  match is with
  | []      => ([], s)
  | i :: is =>
    match exec i s with
    | .next t    => (t.result.toList ++ (runAll is t).1, (runAll is t).2)
    | .fault _   => ([], s)
    | .refused _ => ([], s)

end Sys2Proof.Machine
end

