-- ==== Sys2Proof/Certificates/Slice0/Obligations.lean ====
section
/-! DEFINITION. What the provers are asked to show of the model. Each statement's docstring names the rules it rests
on. "next" is `Host.Outcome.next`: the operation completes. -/

open Sys2Proof Sys2Proof.Machine
open Host (Outcome)

/-! ### Requests (30) -/

/-- O1. Decoding the request for a well-formed instruction gives the instruction back, every operand with it, at every
argument width of 00 R5. -/
def Obligations.DecodeOfEncode : Prop :=
  ∀ argW i, 10 ≤ argW → i.wellFormed argW = true → decode argW (encode argW i) = .ok i

/-- O2. Whatever stands on the port, an operand that is read is in the range of 00 R11. -/
def Obligations.DecodedInstructionsAreWellFormed : Prop :=
  ∀ argW r i, 10 ≤ argW → decode argW r = .ok i → i.wellFormed argW = true

/-- O3. Requests written out from 30 R80 and R81 decode to the operations they stand for, at the default width. -/
def Obligations.RequestsOfEveryFamilyDecode : Prop :=
  decode 32 { opsel := 0x00#8, f := false, args := [], input := [] } = .ok .seqrd ∧
  decode 32 { opsel := 0x01#8, f := false, args := [], input := [] } = .ok .seqadv ∧
  decode 32 { opsel := 0x02#8, f := false, args := [], input := [0x7E#8, 0x7E#8] } = .ok (.enc [0x7E#8, 0x7E#8]) ∧
  decode 32 { opsel := 0x12#8, f := true, args := [.int 3], input := [] } = .ok (.pwron .frame (.int 3)) ∧
  decode 32 { opsel := 0x13#8, f := false, args := [.int 0xFFFFFFFF], input := [] } = .ok (.pwroff .payload (.int (-1))) ∧
  decode 32 { opsel := 0x18#8, f := true, args := [.int 4, .int 16, .int 32, .nonInt], input := [] } =
    .ok (.rgbw .frame (.int 4) (.int 16) (.int 32) .nonInt .nonInt) ∧
  decode 32 { opsel := 0x21#8, f := true, args := [.int 1], input := [0x55#8] } = .ok (.rspzi [0x55#8])

/-- O4. 30 R87 and 60 R220: a request whose selector is not one of the sixteen of 30 R80 has no meaning, and the model
refuses it by name. -/
def Obligations.UnassignedSelectorIsRefused : Prop :=
  ∀ s r rest, s.inputs = .request r :: rest → r.opsel ∉ assignedSelectors →
    step s = .refused (.unassignedOpsel r.opsel)

/-- O5. 30 R81: `F` outside the commands, arguments beyond the operation's operands, and `in` outside the operations on
bytes are ignored. -/
def Obligations.UnusedRequestFieldsAreIgnored : Prop :=
  ∀ argW (r r' : Request), r.opsel = r'.opsel →
    (r.opsel ∈ modeSelectors → r.f = r'.f) →
    (∀ k, k < operandCount r.opsel → r.args[k]? = r'.args[k]?) →
    (r.opsel ∈ bytesSelectors → r.input = r'.input) →
    decode argW r = decode argW r'

/-- O6. 30 R81 and 93 U20: an operand left out is `NonInt` and fails validation with `A_TYPE` at its place in operand
order. First clause, any selector and any operands given: a request decodes as the same request with `NonInt` written out
for what it leaves out, so that the error statements of the commands hold of an operand left out as of a `NonInt` one.
Second clause: no operand at all, for the six operations that have one. Third clause: a legal zone and nothing after it.
Fourth clause, RGBW: a legal zone, legal components and the rest left out, at each of the four places. -/
def Obligations.AbsentOperandFailsItsValidation : Prop :=
  (∀ (argW : Nat) (r : Request) (n : Nat),
    decode argW { r with args := r.args ++ List.replicate n .nonInt } = decode argW r) ∧
  (∀ (s : State) (r : Request) (rest : List HostInput), s.inputs = .request r :: rest → 1 ≤ operandCount r.opsel →
    r.args = [] → step s = .next { s with inputs := rest, result := some (.err (.arg .aType)) }) ∧
  (∀ (s : State) (r : Request) (rest : List HostInput) (z : Nat), s.inputs = .request r :: rest → 10 ≤ s.cfg.argW →
    2 ≤ operandCount r.opsel → 1 ≤ z → z ≤ 16 → r.args = [.int z] →
    step s = .next { s with inputs := rest, result := some (.err (.arg .aType)) }) ∧
  (∀ (s : State) (r : Request) (rest : List HostInput) (z : Nat) (components : Bytes),
    s.inputs = .request r :: rest → 10 ≤ s.cfg.argW → r.opsel = 0x18#8 → 1 ≤ z → z ≤ 16 → components.length ≤ 3 →
    r.args = .int z :: components.map (fun c => .int c.toNat) →
    step s = .next { s with inputs := rest, result := some (.err (.arg .aType)) })

/-- O7. 00 R10 and R11: the `ARGW` bits of an argument are read as a signed integer. -/
def Obligations.PortArgumentsAreSigned : Prop :=
  ∀ argW bits, 10 ≤ argW →
    (bits < 2 ^ (argW - 1) → (PortArg.int bits).read argW = .int bits) ∧
    (2 ^ (argW - 1) ≤ bits → bits < 2 ^ argW → (PortArg.int bits).read argW = .int ((bits : Int) - 2 ^ argW))

/-- O8. 30 R84: at the default parameters, the payload that a command operation delivers belongs to the operation's row
of the table, and the row's fields give back the operation with every operand. GETNZ is left out because its bytes are
PING's (30 R83); that bits shared with PING read as PING is the model's choice (log 11). -/
def Obligations.PayloadsBelongToTheirTableRows : Prop :=
  ∀ i s p, modeOf i = some .payload → i ≠ .getnz .payload →
    s.cfg.bcastMask = 0xFFFF#16 → s.cfg.rgbwPad = 3 → s.cfg.gziPad = 2 → 10 ≤ s.cfg.argW →
    exec i s = .next { s with result := some (.ok (.payload p)) } →
    ∃ r, wireRequest p = some r ∧ decode s.cfg.argW r = .ok i

/-- O9. 30 R83 and R84: no payload belongs to two rows, but for the rows of PING and GETNZ, which are the same. -/
def Obligations.TableRowsAreDisjoint : Prop :=
  ∀ (a b : WireRow) (p : Bytes), a ∈ wireRows → b ∈ wireRows → a.matches p = true → b.matches p = true →
    a.opsel = b.opsel ∨ (a.opsel ∈ [0x10#8, 0x11#8] ∧ b.opsel ∈ [0x10#8, 0x11#8])

/-! ### Steps, reset, invariants (10, 20, 70) -/

/-- O10. A step with a request that decodes to an instruction is that instruction run on the state with the request
taken off it (20 R50). -/
def Obligations.StepRunsTheDecodedInstruction : Prop :=
  ∀ s r rest i, s.inputs = .request r :: rest → decode s.cfg.argW r = .ok i →
    step s = exec i { s with inputs := rest }

/-- O11. 60 R226: with nothing requested the SFE is idle and holds its state. That a step may find nothing to do is the
model's (log 21). -/
def Obligations.IdleStepHoldsTheState : Prop := ∀ s, s.inputs = [] → step s = .next s

/-- O12. 70 R240 and R241: a reset makes `SEQ` zero, leaves no result outstanding and does not touch the parameters. That
it comes as an input between two operations is the model's form (log 6). -/
def Obligations.ResetInputRestoresTheResetState : Prop :=
  ∀ s rest, s.inputs = .reset :: rest → step s = .next { s with seq := 0x00#8, inputs := rest, result := none }

/-- O13. 10 R22: after reset `SEQ = 0x00`. -/
def Obligations.CounterIsZeroAfterReset : Prop :=
  State.reset.seq = 0x00#8 ∧ ∀ s t rest, s.inputs = .reset :: rest → step s = .next t → t.seq = 0x00#8

/-- O14. The parameters of the reset state are the defaults of 00 R5 and meet its constraints. That `State.reset` takes
the defaults is the model's choice (log 3). -/
def Obligations.ResetParametersAreTheDefaults : Prop :=
  State.reset.cfg.chk = .bsum ∧ State.reset.cfg.bcastMask = 0xFFFF#16 ∧ State.reset.cfg.rgbwPad = 3 ∧
  State.reset.cfg.gziPad = 2 ∧ State.reset.cfg.maxPay = 255 ∧ State.reset.cfg.nzMaskOff = 12 ∧
  State.reset.cfg.ziTypeOff = 12 ∧ State.reset.cfg.ziNameOff = 13 ∧ State.reset.cfg.nameLen = 16 ∧
  State.reset.cfg.ztCode = ⟨0x01#8, 0x11#8, 0x21#8, 0x31#8, 0x41#8, 0x51#8⟩ ∧ State.reset.cfg.argW = 32 ∧
  State.reset.cfg.Conforming

/-- O15. The invariant holds at reset. -/
def Obligations.InvariantHoldsAtReset : Prop := State.reset.Inv

/-- O16. 20 R47: every step keeps the invariant. The parameters stay conforming; a frame that is the result passes
`UNFRAME`, a payload fits `MAXPAY`, a zone count is at most 16, a name is stripped, well-formed and fits `NAME_LEN`. -/
def Obligations.EveryStepKeepsTheInvariant : Prop := ∀ s t, s.Inv → step s = .next t → t.Inv

/-- O17. 10 R29 (a), 70 R241: no step changes the parameters, and each takes at most the oldest input. -/
def Obligations.StepNeverChangesTheParameters : Prop :=
  ∀ s t, step s = .next t → t.cfg = s.cfg ∧ t.inputs = s.inputs.tail

/-- O18. 70 R251, 60 R220: every operation, whatever its operands and from every state, ends with exactly one result and
leaves a state from which the next may run. -/
def Obligations.EveryOperationAnswersWithAResult : Prop :=
  ∀ i s, ∃ t r, exec i s = .next t ∧ t.result = some r

/-- O19. The frame of every operation: the parameters and the pending inputs are unchanged, and `SEQ` too for SEQRD, DEC,
RSPNZ, RSPZI and the commands in mode `.P` (20 R47, 10 R23). The result is the output port. -/
def Obligations.OperationsLeaveTheRestUnchanged : Prop :=
  ∀ i s t, exec i s = .next t →
    t.cfg = s.cfg ∧ t.inputs = s.inputs ∧ (advances i = false → t.seq = s.seq)

/-- O20. 10 R23: the only mutation of `SEQ` besides reset is the advance, once, in SEQADV and in every operation that
builds a frame and succeeds. First clause: what each operation does to `SEQ`. Second: a step changes it in no other way. -/
def Obligations.OnlyTheListedOperationsAdvance : Prop :=
  (∀ i s t r, exec i s = .next t → t.result = some r →
    t.seq = if advances i = true ∧ r.isOk = true then BitVec.ofNat 8 ((s.seq.toNat + 1) % 256) else s.seq) ∧
  (∀ s t, step s = .next t →
    t.seq = s.seq ∨
    ((∃ rest, s.inputs = .reset :: rest) ∧ t.seq = 0x00#8) ∨
    (∃ r rest i, s.inputs = .request r :: rest ∧ decode s.cfg.argW r = .ok i ∧ advances i = true ∧
      (∃ o, t.result = some (.ok o)) ∧ t.seq = BitVec.ofNat 8 ((s.seq.toNat + 1) % 256)))

/-- O21. 20 R50 (b): in any run of operations without SEQADV, the frames built carry the markers `SEQ`, `SEQ + 1`, ... in
order, and `SEQ` ends past the last. From `SEQ = 0` the marker of the k-th frame is k mod 256. -/
def Obligations.FramesCarryConsecutiveMarkers : Prop :=
  ∀ is s, Instr.seqadv ∉ is →
    let frames := (runAll is s).1.filterMap Result.frame?
    frames.map (fun f => f[5]?) =
        (List.range frames.length).map (fun k => some (BitVec.ofNat 8 ((s.seq.toNat + k) % 256))) ∧
      (runAll is s).2.seq = BitVec.ofNat 8 ((s.seq.toNat + frames.length) % 256)

/-- O22. 60 R218: the state after an `Err` is the state before the operation, but for the result itself. -/
def Obligations.ErrorsLeaveTheStateUnchanged : Prop :=
  ∀ i s t e, exec i s = .next t → t.result = some (.err e) → t = failed e s

/-- O23. 60 R214: an operation returns only the errors of its row. -/
def Obligations.OperationsReturnOnlyTheirErrors : Prop :=
  ∀ i s t e, exec i s = .next t → t.result = some (.err e) → e ∈ errorsOf i

/-- O24. 10 R27, 20 R50 (c): no operation reads the result of an earlier one. -/
def Obligations.EarlierResultsAreNeverRead : Prop :=
  ∀ i s r, exec i { s with result := r } = exec i s

/-- O25. 20 R47: an operation that does not write `SEQ` is idempotent. -/
def Obligations.ReadingOperationsAreIdempotent : Prop :=
  ∀ i s t, advances i = false → exec i s = .next t → exec i t = .next t

/-- O26. 60 R211: status 3 is never produced, status 0 is `OK`, and cause 0 is never produced with an error. -/
def Obligations.StatusCodesTellTheKinds : Prop :=
  ∀ r : Result, r.status ≠ 3#2 ∧ (r.status = 0#2 ↔ r.isOk = true) ∧ (r.status = 1#2 ↔ ∃ c, r = .err (.arg c)) ∧
    (r.status = 2#2 ↔ ∃ c, r = .err (.dec c)) ∧ (r.isOk = false → r.causeCode ≠ 0#3)

/-! ### The sequence counter (41) -/

/-- O27. 41 R121: SEQRD returns `SEQ` and writes nothing. -/
def Obligations.SeqrdReturnsTheCounter : Prop :=
  ∀ s, exec .seqrd s = .next { s with result := some (.ok (.byte s.seq)) }

/-- O28. 41 R122: SEQADV adds one modulo 256 and cannot fail; n of them add n. -/
def Obligations.SeqadvAdvancesModulo256 : Prop :=
  (∀ s, exec .seqadv s =
    .next { s with seq := BitVec.ofNat 8 ((s.seq.toNat + 1) % 256), result := some (.ok .nothing) }) ∧
  (∀ n s, (runAll (List.replicate n .seqadv) s).1 = List.replicate n (.ok .nothing) ∧
    (runAll (List.replicate n .seqadv) s).2.seq = BitVec.ofNat 8 ((s.seq.toNat + n) % 256))

/-! ### Commands (42) -/

/-- O29. 42 R132, R133: PING and GETNZ deliver the twelve bytes of 30 R65 in either mode, from every state. -/
def Obligations.PingAndGetnzDeliverTheLiteral : Prop :=
  ∀ f s,
    exec (.ping f) s = .next (delivered f [0x80#8, 0x00#8, 0x80#8, 0xE1#8, 0x80#8, 0x00#8, 0x00#8, 0x01#8, 0x00#8,
      0x79#8, 0x00#8, 0x00#8] s) ∧
    exec (.getnz f) s = .next (delivered f [0x80#8, 0x00#8, 0x80#8, 0xE1#8, 0x80#8, 0x00#8, 0x00#8, 0x01#8, 0x00#8,
      0x79#8, 0x00#8, 0x00#8] s)

/-- O30. 42 R134, R135: PWRON and PWROFF deliver `0A 01`, the zone's bitmask and the on/off byte for a zone 1..16, and
fail with `A_RANGE` for any other integer and `A_TYPE` for no integer. -/
def Obligations.PowerCommandsSwitchOneZone : Prop :=
  (∀ f s (z : Nat), 1 ≤ z → z ≤ 16 →
    exec (.pwron f (.int z)) s = .next (delivered f ([0x0A#8, 0x01#8] ++ zoneBytes z ++ [0x01#8]) s) ∧
    exec (.pwroff f (.int z)) s = .next (delivered f ([0x0A#8, 0x01#8] ++ zoneBytes z ++ [0x00#8]) s)) ∧
  (∀ f s (v : Int), v < 1 ∨ 16 < v →
    exec (.pwron f (.int v)) s = .next (failed (.arg .aRange) s) ∧
    exec (.pwroff f (.int v)) s = .next (failed (.arg .aRange) s)) ∧
  (∀ f s,
    exec (.pwron f .nonInt) s = .next (failed (.arg .aType) s) ∧
    exec (.pwroff f .nonInt) s = .next (failed (.arg .aType) s))

/-- O31. 42 R136, R137: MPWRON and MPWROFF deliver `0B 03`, `BCAST_MASK` low byte first and the on/off byte, and cannot
fail. -/
def Obligations.MasterCommandsUseTheBroadcastMask : Prop :=
  ∀ f s,
    exec (.mpwron f) s = .next (delivered f [0x0B#8, 0x03#8, BitVec.ofNat 8 (s.cfg.bcastMask.toNat % 256),
      BitVec.ofNat 8 (s.cfg.bcastMask.toNat / 256), 0x01#8] s) ∧
    exec (.mpwroff f) s = .next (delivered f [0x0B#8, 0x03#8, BitVec.ofNat 8 (s.cfg.bcastMask.toNat % 256),
      BitVec.ofNat 8 (s.cfg.bcastMask.toNat / 256), 0x00#8] s)

/-- O32. 42 R138: BRT on a zone 1..16 and a level 1..255; its errors, the zone's before the level's, and in the level
the type, then zero, then the range. -/
def Obligations.BrightnessCommandSetsALevel : Prop :=
  (∀ f s (z l : Nat), 1 ≤ z → z ≤ 16 → 1 ≤ l → l ≤ 255 →
    exec (.brt f (.int z) (.int l)) s =
      .next (delivered f ([0x07#8, 0x02#8] ++ zoneBytes z ++ [0x00#8, BitVec.ofNat 8 l]) s)) ∧
  (∀ f s a, exec (.brt f .nonInt a) s = .next (failed (.arg .aType) s)) ∧
  (∀ f s (v : Int) a, v < 1 ∨ 16 < v → exec (.brt f (.int v) a) s = .next (failed (.arg .aRange) s)) ∧
  (∀ f s (z : Int), 1 ≤ z → z ≤ 16 →
    exec (.brt f (.int z) .nonInt) s = .next (failed (.arg .aType) s) ∧
    exec (.brt f (.int z) (.int 0)) s = .next (failed (.arg .aZero) s) ∧
    ∀ v : Int, v < 0 ∨ 255 < v → exec (.brt f (.int z) (.int v)) s = .next (failed (.arg .aRange) s))

/-- O33. 42 R139: TEMP on a zone 1..16 and a value 0..255, and its errors, the zone's first. -/
def Obligations.TemperatureCommandSetsAValue : Prop :=
  (∀ f s (z t : Nat), 1 ≤ z → z ≤ 16 → t ≤ 255 →
    exec (.temp f (.int z) (.int t)) s =
      .next (delivered f ([0x0D#8, 0x02#8] ++ zoneBytes z ++ [0x00#8, BitVec.ofNat 8 t]) s)) ∧
  (∀ f s a, exec (.temp f .nonInt a) s = .next (failed (.arg .aType) s)) ∧
  (∀ f s (v : Int) a, v < 1 ∨ 16 < v → exec (.temp f (.int v) a) s = .next (failed (.arg .aRange) s)) ∧
  (∀ f s (z : Int), 1 ≤ z → z ≤ 16 →
    exec (.temp f (.int z) .nonInt) s = .next (failed (.arg .aType) s) ∧
    ∀ v : Int, v < 0 ∨ 255 < v → exec (.temp f (.int z) (.int v)) s = .next (failed (.arg .aRange) s))

/-- O34. 42 R140, 40 R106 and R107: RGBW on a zone 1..16 and components 0..255 not all zero; else the zone's failure, else
the first failure of red, green, blue, white, else, when all four are zero, `A_ALLZERO`. -/
def Obligations.ColourCommandSetsFourComponents : Prop :=
  (∀ f s (z r g b w : Nat), 1 ≤ z → z ≤ 16 → r ≤ 255 → g ≤ 255 → b ≤ 255 → w ≤ 255 → 0 < r + g + b + w →
    exec (.rgbw f (.int z) (.int r) (.int g) (.int b) (.int w)) s =
      .next (delivered f ([0x01#8, 0x07#8] ++ zoneBytes z ++
        [BitVec.ofNat 8 r, BitVec.ofNat 8 g, BitVec.ofNat 8 b, BitVec.ofNat 8 w] ++
        List.replicate s.cfg.rgbwPad 0x00#8) s)) ∧
  (∀ f s r g b w, exec (.rgbw f .nonInt r g b w) s = .next (failed (.arg .aType) s)) ∧
  (∀ f s (v : Int) r g b w, v < 1 ∨ 16 < v → exec (.rgbw f (.int v) r g b w) s = .next (failed (.arg .aRange) s)) ∧
  (∀ f s (z : Int) r g b w c, 1 ≤ z → z ≤ 16 →
    ([r, g, b, w].filterMap componentCause).head? = some c →
    exec (.rgbw f (.int z) r g b w) s = .next (failed (.arg c) s)) ∧
  (∀ f s (z : Int), 1 ≤ z → z ≤ 16 →
    exec (.rgbw f (.int z) (.int 0) (.int 0) (.int 0) (.int 0)) s = .next (failed (.arg .aAllZero) s))

/-- O35. 42 R141: GETZI on a zone 1..16, and its errors. -/
def Obligations.ZoneInfoQueryNamesItsZone : Prop :=
  (∀ f s (z : Nat), 1 ≤ z → z ≤ 16 →
    exec (.getzi f (.int z)) s =
      .next (delivered f ([0x78#8] ++ zoneBytes z ++ List.replicate s.cfg.gziPad 0x00#8) s)) ∧
  (∀ f s (v : Int), v < 1 ∨ 16 < v → exec (.getzi f (.int v)) s = .next (failed (.arg .aRange) s)) ∧
  (∀ f s, exec (.getzi f .nonInt) s = .next (failed (.arg .aType) s))

/-- O36. 30 R71: the bitmask field of zone `z` is `le16` of the 16-bit value with exactly bit `z - 1` set. -/
def Obligations.ZoneFieldHasExactlyItsBit : Prop :=
  ∀ z : Nat, 1 ≤ z → z ≤ 16 →
    zoneField z = zoneBytes z ∧
    ∃ m : Half, zoneField z = le16 m ∧ ∀ i, i < 16 → (m.getLsbD i = true ↔ i = z - 1)

/-- O37. 00 R9: `le16` puts the low byte first, `unle16(b0, b1)` is `b0 + 256*b1`, and each undoes the other. -/
def Obligations.LittleEndianFieldsRoundTrip : Prop :=
  (∀ v : Half, le16 v = [BitVec.ofNat 8 (v.toNat % 256), BitVec.ofNat 8 (v.toNat / 256)]) ∧
  (∀ b0 b1 : Byte, (unle16 b0 b1).toNat = b0.toNat + 256 * b1.toNat ∧ le16 (unle16 b0 b1) = [b0, b1]) ∧
  (∀ (v : Half) (b0 b1 : Byte), le16 v = [b0, b1] → unle16 b0 b1 = v)

/-- O38. 42 R142: the payload of a command depends on the mnemonic, the arguments and the parameters only; a frame
depends on `SEQ` besides, through the marker and the checksum only. -/
def Obligations.PayloadsDoNotDependOnTheCounter : Prop :=
  (∀ i (s : State), modeOf i = some .payload →
    ∃ r, ∀ s' : State, s'.cfg = s.cfg → exec i s' = .next { s' with result := some r }) ∧
  (∀ i (s : State), modeOf i = some .frame →
    (∃ e, ∀ s' : State, s'.cfg = s.cfg → exec i s' = .next (failed e s')) ∨
    (∃ p, ∀ s' : State, s'.cfg = s.cfg → exec i s' = .next (delivered .frame p s')))

/-- O39. 42 R143: a `.F` operation equals its `.P` operation followed by ENC. The premise is 92 D7's bound on `MAXPAY`,
which 42 R131 says a conforming configuration keeps and EveryStepKeepsTheInvariant says that steps keep. -/
def Obligations.FrameModeIsPayloadModeThenEnc : Prop :=
  ∀ i s, s.cfg.Conforming → modeOf i = some .payload →
    (∀ p, exec i s = .next { s with result := some (.ok (.payload p)) } →
      exec (inMode .frame i) s = exec (.enc p) s) ∧
    (∀ e, exec i s = .next (failed e s) → exec (inMode .frame i) s = .next (failed e s))

/-! ### The frame codec (43) -/

/-- O40. 43 R167: ENC frames any payload of at most `MAXPAY` bytes and advances `SEQ` once; a longer payload is
`E_ARG/A_LEN` and changes nothing. -/
def Obligations.EncFramesThePayload : Prop :=
  ∀ p (s : State),
    (p.length ≤ s.cfg.maxPay → exec (.enc p) s = .next (delivered .frame p s)) ∧
    (s.cfg.maxPay < p.length → exec (.enc p) s = .next (failed (.arg .aLen) s))

/-- O41. 30 R60, R61: a frame that an operation returns has `m + 8` bytes: preamble, the old `SEQ`, the payload, the
checksum of the marker and the payload, the terminator, each at its place. -/
def Obligations.FramesHaveTheEnvelopeLayout : Prop :=
  ∀ i s t f, exec i s = .next t → t.result = some (.ok (.frame f)) →
    ∃ p : Bytes, f.length = p.length + 8 ∧ f.take 5 = [0x55#8, 0xAA#8, 0x5A#8, 0xA5#8, 0x7E#8] ∧ f[5]? = some s.seq ∧
      (f.drop 6).take p.length = p ∧ f[p.length + 6]? = some (evalChk s.cfg.chk (s.seq :: p)) ∧
      f[p.length + 7]? = some 0x7E#8

/-- O42. 43 R172: what a passed decode shows. DEC returns a marker and a payload only of a frame of at most `MAXPAY`
payload bytes, and they are that frame's. -/
def Obligations.DecReturnsOnlyWhatAFrameEncloses : Prop :=
  ∀ raw s t mk p, exec (.dec raw) s = .next t → t.result = some (.ok (.decoded mk p)) →
    p.length ≤ s.cfg.maxPay ∧ raw = frameOf s.cfg.chk mk p

/-- O43. 43 R169, R170, 60 R217 (b): DEC returns the marker and the payload of a frame of at most `MAXPAY` payload bytes,
and else reports the first of length, preamble, terminator and checksum that is wrong. -/
def Obligations.DecChecksTheEnvelope : Prop :=
  (∀ (s : State) mk (p : Bytes), p.length ≤ s.cfg.maxPay →
    exec (.dec (frameOf s.cfg.chk mk p)) s = .next { s with result := some (.ok (.decoded mk p)) }) ∧
  (∀ raw (s : State), raw.length < 8 ∨ s.cfg.maxPay + 8 < raw.length → exec (.dec raw) s = .next (failed (.dec .dLen) s)) ∧
  (∀ raw (s : State), 8 ≤ raw.length → raw.length ≤ s.cfg.maxPay + 8 →
    raw.take 5 ≠ [0x55#8, 0xAA#8, 0x5A#8, 0xA5#8, 0x7E#8] → exec (.dec raw) s = .next (failed (.dec .dPreamble) s)) ∧
  (∀ (s : State) mk (p : Bytes) ck last, p.length ≤ s.cfg.maxPay → last ≠ 0x7E#8 →
    exec (.dec ([0x55#8, 0xAA#8, 0x5A#8, 0xA5#8, 0x7E#8, mk] ++ p ++ [ck, last])) s =
      .next (failed (.dec .dTerm) s)) ∧
  (∀ (s : State) mk (p : Bytes) ck, p.length ≤ s.cfg.maxPay → ck ≠ evalChk s.cfg.chk (mk :: p) →
    exec (.dec ([0x55#8, 0xAA#8, 0x5A#8, 0xA5#8, 0x7E#8, mk] ++ p ++ [ck, 0x7E#8])) s =
      .next (failed (.dec .dChk) s))

/-- O44. 43 R171: decoding what ENC returned gives back the marker and the payload, in every state of the same
parameters. -/
def Obligations.EncThenDecGivesThePayloadBack : Prop :=
  ∀ p s t f u, exec (.enc p) s = .next t → t.result = some (.ok (.frame f)) → u.cfg = s.cfg →
    exec (.dec f) u = .next { u with result := some (.ok (.decoded s.seq p)) }

/-- O45. 43 R172: under `CHK_BSUM` a change of one byte of marker, payload or checksum of a frame that DEC accepts makes
DEC fail with `D_CHK`; under `CHK_ZERO` a change of one byte of marker or payload is not detected. -/
def Obligations.OneChangedByteIsDetectedByTheSum : Prop :=
  ∀ raw s mk p k b, exec (.dec raw) s = .next { s with result := some (.ok (.decoded mk p)) } → 5 ≤ k →
    (s.cfg.chk = .bsum → k < raw.length - 1 → raw[k]? ≠ some b →
      exec (.dec (raw.set k b)) s = .next (failed (.dec .dChk) s)) ∧
    (s.cfg.chk = .zero → k < raw.length - 2 →
      ∃ mk' p', exec (.dec (raw.set k b)) s = .next { s with result := some (.ok (.decoded mk' p')) })

/-- O46. 43 R162 (b): every checksum function of the model gives `00` on the marker `00` and the Ping payload. -/
def Obligations.EveryChecksumMeetsThePingVector : Prop :=
  ∀ k, evalChk k [0x00#8, 0x80#8, 0x00#8, 0x80#8, 0xE1#8, 0x80#8, 0x00#8, 0x00#8, 0x01#8, 0x00#8, 0x79#8, 0x00#8,
    0x00#8] = 0x00#8

/-- O47. 43 R163: `CHK_BSUM` is the sum of the bytes and `0x25`, modulo 256. -/
def Obligations.DefaultChecksumIsTheBiasedSum : Prop :=
  ∀ s : Bytes, (evalChk .bsum s).toNat = (0x25 + (s.map BitVec.toNat).sum) % 256

/-! ### The response parsers (44) -/

/-- O48. 44 R192: RSPNZ on a frame counts the zones of the 16-bit field, fails with `D_SHORT` when the payload ends
before it, and passes an envelope failure on. -/
def Obligations.RspnzCountsThePresentZones : Prop :=
  (∀ (s : State) mk (p : Bytes) b0 b1, p.length ≤ s.cfg.maxPay → p[s.cfg.nzMaskOff]? = some b0 →
    p[s.cfg.nzMaskOff + 1]? = some b1 →
    exec (.rspnz (frameOf s.cfg.chk mk p)) s = .next { s with result := some (.ok (.number
      ((Finset.range 16).filter (fun i => (b0.toNat + 256 * b1.toNat).testBit i = true)).card)) }) ∧
  (∀ (s : State) mk (p : Bytes), p.length ≤ s.cfg.maxPay → p.length < s.cfg.nzMaskOff + 2 →
    exec (.rspnz (frameOf s.cfg.chk mk p)) s = .next (failed (.dec .dShort) s)) ∧
  (∀ raw s e, exec (.dec raw) s = .next (failed e s) → exec (.rspnz raw) s = .next (failed e s))

/-- O49. 44 R193: `popcount16` counts the set bits; it is 0 exactly for 0 and 16 exactly for `0xFFFF`. -/
def Obligations.PopulationCountHasItsExtremes : Prop :=
  ∀ v : Half, popcount16 v = ((Finset.range 16).filter (fun i => v.getLsbD i = true)).card ∧
    (popcount16 v = 0 ↔ v = 0x0000#16) ∧ (popcount16 v = 16 ↔ v = 0xFFFF#16) ∧ popcount16 v < 2 ^ 5

/-- O50. 44 R195, 60 R217 (c). First clause: a frame whose payload is long enough, whose type byte is the code of a zone
type, and whose stripped name is well-formed UTF-8 (said by the table of 44 R196) gives the type and the name. The other
clauses are RSPZI's failures in their order: the envelope's, `D_SHORT`, `D_ZTYPE`, `D_UTF8`. The premise that the
parameters conform stands for `ZT_CODE` being injective (00 R5); EveryStepKeepsTheInvariant says that steps keep it. -/
def Obligations.RspziReturnsTypeAndName : Prop :=
  (∀ (s : State) mk (p : Bytes) type (parts : List Bytes), s.cfg.Conforming → p.length ≤ s.cfg.maxPay →
    s.cfg.ziTypeOff + 1 ≤ p.length → s.cfg.ziNameOff + s.cfg.nameLen ≤ p.length →
    p[s.cfg.ziTypeOff]? = some (zoneCode s.cfg.ztCode type) →
    strip ((p.drop s.cfg.ziNameOff).take s.cfg.nameLen) = parts.flatten → (∀ q ∈ parts, Utf8Sequence q) →
    exec (.rspzi (frameOf s.cfg.chk mk p)) s =
      .next { s with result := some (.ok (.zoneInfo type parts.flatten)) }) ∧
  (∀ raw s e, exec (.dec raw) s = .next (failed e s) → exec (.rspzi raw) s = .next (failed e s)) ∧
  (∀ (s : State) mk (p : Bytes), p.length ≤ s.cfg.maxPay →
    p.length < s.cfg.ziTypeOff + 1 ∨ p.length < s.cfg.ziNameOff + s.cfg.nameLen →
    exec (.rspzi (frameOf s.cfg.chk mk p)) s = .next (failed (.dec .dShort) s)) ∧
  (∀ (s : State) mk (p : Bytes) code, p.length ≤ s.cfg.maxPay → s.cfg.ziTypeOff + 1 ≤ p.length →
    s.cfg.ziNameOff + s.cfg.nameLen ≤ p.length → p[s.cfg.ziTypeOff]? = some code → code ∉ s.cfg.ztCode.codes →
    exec (.rspzi (frameOf s.cfg.chk mk p)) s = .next (failed (.dec .dZtype) s)) ∧
  (∀ (s : State) mk (p : Bytes) type, p.length ≤ s.cfg.maxPay → s.cfg.ziTypeOff + 1 ≤ p.length →
    s.cfg.ziNameOff + s.cfg.nameLen ≤ p.length → p[s.cfg.ziTypeOff]? = some (zoneCode s.cfg.ztCode type) →
    (¬ ∃ parts : List Bytes, strip ((p.drop s.cfg.ziNameOff).take s.cfg.nameLen) = parts.flatten ∧
      ∀ q ∈ parts, Utf8Sequence q) →
    exec (.rspzi (frameOf s.cfg.chk mk p)) s = .next (failed (.dec .dUtf8) s))

/-- O51. 44 R199: with `ZT_CODE` injective, each of its codes maps back to exactly one type and every other byte to
none. -/
def Obligations.ZoneCodesMapBackToTheirTypes : Prop :=
  ∀ t : ZtCode, t.codes.Nodup →
    (∀ code type, zoneTypeOf t code = some type ↔ code = zoneCode t type) ∧
    (∀ code, zoneTypeOf t code = none ↔ code ∉ t.codes)

/-- O52. 44 R194: `STRIP` removes the longest tail of nulls and spaces and nothing else. -/
def Obligations.StripRemovesTheTrailingFill : Prop :=
  ∀ f g : Bytes, strip f = g ↔
    ∃ tail, f = g ++ tail ∧ (∀ b ∈ tail, b = 0x00#8 ∨ b = 0x20#8) ∧
      ∀ b, g.getLast? = some b → b ≠ 0x00#8 ∧ b ≠ 0x20#8

/-- O53. 44 R196: `UTF8_WELLFORMED` holds exactly of the concatenations of sequences of the table. -/
def Obligations.WellFormedNamesAreConcatenations : Prop :=
  ∀ s : Bytes, utf8WellFormed s = true ↔ ∃ parts : List Bytes, s = parts.flatten ∧ ∀ q ∈ parts, Utf8Sequence q

/-- O54. 44 R197: the text of a well-formed name is the code points of its sequences in order; a name has a text exactly
when it is well-formed. -/
def Obligations.NameTextIsTheCodePoints : Prop :=
  (∀ parts : List Bytes, (∀ q ∈ parts, Utf8Sequence q) → nameText parts.flatten = some (parts.map codePoint)) ∧
  (∀ s : Bytes, (nameText s).isSome = utf8WellFormed s)
end

