-- ==== Sys2Proof/Laws/State.lean ====
section
/-! SUPPORT. What each update of the state leaves in each field. -/

namespace Sys2Proof.Machine

@[simp] theorem State.advance_seq (s : State) : s.advance.seq = s.seq + 1#8 := rfl
@[simp] theorem State.advance_cfg (s : State) : s.advance.cfg = s.cfg := rfl
@[simp] theorem State.advance_inputs (s : State) : s.advance.inputs = s.inputs := rfl
@[simp] theorem State.advance_result (s : State) : s.advance.result = s.result := rfl

@[simp] theorem State.finish_seq (s : State) (r : Result) : (s.finish r).seq = s.seq := rfl
@[simp] theorem State.finish_cfg (s : State) (r : Result) : (s.finish r).cfg = s.cfg := rfl
@[simp] theorem State.finish_inputs (s : State) (r : Result) : (s.finish r).inputs = s.inputs := rfl
@[simp] theorem State.finish_result (s : State) (r : Result) : (s.finish r).result = some r := rfl

@[simp] theorem State.issue_seq (s : State) (r : Request) : (s.issue r).seq = s.seq := rfl
@[simp] theorem State.issue_cfg (s : State) (r : Request) : (s.issue r).cfg = s.cfg := rfl
@[simp] theorem State.issue_inputs (s : State) (r : Request) : (s.issue r).inputs = .request r :: s.inputs := rfl
@[simp] theorem State.issue_result (s : State) (r : Request) : (s.issue r).result = s.result := rfl

/-- A step takes the oldest input and changes nothing else before it acts on it. -/
theorem State.takeInput_eq (s : State) :
    s.takeInput = match s.inputs with
      | []        => none
      | x :: rest => some (x, { s with inputs := rest }) := rfl

@[simp] theorem State.takeInput_issue (s : State) (r : Request) : (s.issue r).takeInput = some (.request r, s) := rfl

end Sys2Proof.Machine
end

