-- ==== Sys2Proof/Laws/Ops.lean ====
section
/-! SUPPORT. What each shared operation of Machine/Ops.lean can do, said once. -/

namespace Sys2Proof.Machine

/-! ### Results -/

@[simp] theorem respond_eq (o : Output) (s : State) : respond o s = .next { s with result := some (.ok o) } := rfl

@[simp] theorem raise_eq (e : Err) (s : State) : raise e s = .next { s with result := some (.err e) } := rfl

@[simp] theorem answer_ok (o : Output) (s : State) : answer (.ok o) s = .next { s with result := some (.ok o) } := rfl

@[simp] theorem answer_error (e : Err) (s : State) : answer (.error e) s = .next { s with result := some (.err e) } := rfl

@[simp] theorem buildFrame_eq (p : Bytes) (s : State) :
    buildFrame p s = .next { s with seq := s.seq + 1#8, result := some (.ok (.frame (frameBytes s.cfg s.seq p))) } := rfl

@[simp] theorem deliver_payload (p : Bytes) (s : State) : deliver .payload p s = respond (.payload p) s := rfl

@[simp] theorem deliver_frame (p : Bytes) (s : State) : deliver .frame p s = buildFrame p s := rfl

/-! ### The envelope -/

@[simp] theorem preamble_length : preamble.length = 5 := rfl

@[simp] theorem frameBytes_length (c : Config) (mk : Byte) (p : Bytes) : (frameBytes c mk p).length = p.length + 8 := by
  simp [frameBytes]; omega

theorem frameBytes_eq (c : Config) (mk : Byte) (p : Bytes) :
    frameBytes c mk p = 0x55#8 :: 0xAA#8 :: 0x5A#8 :: 0xA5#8 :: 0x7E#8 :: mk :: (p ++ [checksum c mk p, 0x7E#8]) := rfl

/-- A list of at least eight bytes, cut where a frame is cut. -/
theorem cut_frame (raw : Bytes) (h : 8 ≤ raw.length) :
    raw = raw.take 5 ++ [raw.getD 5 0#8] ++ (raw.drop 6).take (raw.length - 8) ++
      [raw.getD (raw.length - 2) 0#8, raw.getD (raw.length - 1) 0#8] := by
  apply List.ext_getElem?
  intro i
  grind

/-- `UNFRAME` passes exactly the frames of at most `MAXPAY` payload bytes (43 R169). -/
theorem unframe_ok_iff (c : Config) (raw : Bytes) (mk : Byte) (p : Bytes) :
    unframe c raw = .ok (mk, p) ↔ p.length ≤ c.maxPay ∧ raw = frameBytes c mk p := by
  constructor
  · intro h
    simp only [unframe] at h
    split at h
    · cases h
    rename_i hlen
    split at h
    · cases h
    rename_i hpre
    split at h
    · cases h
    rename_i hterm
    split at h
    · cases h
    rename_i hchk
    obtain ⟨rfl, rfl⟩ : raw.getD 5 0#8 = mk ∧ (raw.drop 6).take (raw.length - 8) = p := by simpa using h
    refine ⟨by simp; omega, ?_⟩
    conv_lhs => rw [cut_frame raw (by omega)]
    simp only [not_not] at hpre hterm hchk
    rw [hpre, hterm, ← hchk]
    rfl
  · rintro ⟨hp, rfl⟩
    have hlen : ¬ (p.length + 8 < 8 ∨ c.maxPay + 8 < p.length + 8) := by omega
    have hterm : (frameBytes c mk p).getD (p.length + 7) 0#8 = term := by
      simp [frameBytes_eq, term]
    have hchk : (frameBytes c mk p).getD (p.length + 6) 0#8 = checksum c mk p := by
      simp [frameBytes_eq]
    have hp' : ((frameBytes c mk p).drop 6).take p.length = p := by simp [frameBytes_eq]
    have h5 : (frameBytes c mk p).getD 5 0#8 = mk := rfl
    have hpre : (frameBytes c mk p).take 5 = preamble := rfl
    have e1 : p.length + 8 - 1 = p.length + 7 := rfl
    have e2 : p.length + 8 - 2 = p.length + 6 := rfl
    have e3 : p.length + 8 - 8 = p.length := rfl
    simp only [unframe, frameBytes_length, hlen, if_false, hpre, e1, e2, e3, hterm, hchk, hp', h5, ne_eq, not_true]

end Sys2Proof.Machine
end

