-- ==== Sys2Proof/Laws/Operands.lean ====
section
/-! SUPPORT. What the arguments of a request, the validators, the payload formats and the response fields answer, said once. -/

namespace Sys2Proof

/-! ### Arguments of a request -/

@[simp] theorem PortArg.read_nonInt (argW : Nat) : PortArg.nonInt.read argW = .nonInt := rfl

/-- An operand the host leaves out is `NonInt` (30 R81). -/
theorem Request.arg_of_length_le {argW : Nat} {r : Request} {k : Nat} (h : r.args.length ≤ k) :
    r.arg argW k = .nonInt := by
  simp [Request.arg, List.getElem?_eq_none h]

end Sys2Proof

namespace Sys2Proof.Machine

/-! ### Validators -/

theorem validate_ok_iff (lo hi : Int) (a : Arg) (v : Int) :
    validate lo hi a = .ok v ↔ a = .int v ∧ lo ≤ v ∧ v ≤ hi := by
  cases a with
  | nonInt => simp [validate]
  | int u =>
    by_cases h : u < lo ∨ hi < u
    · simp [validate, h]; omega
    · simp [validate, h]; omega

theorem vBrt_ok_iff (a : Arg) (v : Int) : vBrt a = .ok v ↔ a = .int v ∧ 1 ≤ v ∧ v ≤ 255 := by
  cases a with
  | nonInt => simp [vBrt]
  | int u =>
    by_cases h0 : u = 0
    · simp [vBrt, h0]; omega
    · by_cases h : u < 1 ∨ 255 < u
      · simp [vBrt, h0, h]; omega
      · simp [vBrt, h0, h]; omega

@[simp] theorem validate_nonInt (lo hi : Int) : validate lo hi .nonInt = .error .aType := rfl

theorem validate_int (lo hi v : Int) :
    validate lo hi (.int v) = if v < lo ∨ hi < v then .error .aRange else .ok v := rfl

@[simp] theorem vZone_nonInt : vZone .nonInt = .error .aType := rfl

theorem vZone_ok_iff (a : Arg) (z : Int) : vZone a = .ok z ↔ a = .int z ∧ 1 ≤ z ∧ z ≤ 16 := validate_ok_iff 1 16 a z

theorem vRgbw_ok_iff (ar ag ab aw : Arg) (r g b w : Int) :
    vRgbw ar ag ab aw = .ok (r, g, b, w) ↔
      vComp ar = .ok r ∧ vComp ag = .ok g ∧ vComp ab = .ok b ∧ vComp aw = .ok w ∧ ¬ (r = 0 ∧ g = 0 ∧ b = 0 ∧ w = 0) := by
  unfold vRgbw
  cases vComp ar <;> cases vComp ag <;> cases vComp ab <;> cases vComp aw <;> simp [bind, Except.bind]
  rename_i x y z u
  split <;> grind

/-! ### Payload formats -/

@[simp] theorem le16_length (v : Half) : (le16 v).length = 2 := rfl

@[simp] theorem zoneField_length (z : Int) : (zoneField z).length = 2 := rfl

@[simp] theorem zeros_length (n : Nat) : (zeros n).length = n := List.length_replicate

@[simp] theorem pingPayload_length : pingPayload.length = 12 := rfl

@[simp] theorem masterPayload_length (c : Config) (b : Byte) : (masterPayload c b).length = 5 := rfl

theorem powerPayload_eq (b : Byte) (zone : Arg) :
    powerPayload b zone = (vZone zone).map fun z => [0x0A#8, 0x01#8] ++ zoneField z ++ [b] := by
  cases h : vZone zone <;> simp [powerPayload, h, bind, Except.bind, Except.map]

theorem levelPayload_eq (opcode : Byte) (v : Arg → Except ArgCause Int) (zone value : Arg) :
    levelPayload opcode v zone value =
      (vZone zone).bind fun z => (v value).map fun l => [opcode, 0x02#8] ++ zoneField z ++ [0x00#8, byteField l] := by
  cases h : vZone zone <;> cases h' : v value <;> simp [levelPayload, h, h', bind, Except.bind, Except.map]

theorem rgbwPayload_eq (c : Config) (zone r g b w : Arg) :
    rgbwPayload c zone r g b w =
      (vZone zone).bind fun z => (vRgbw r g b w).map fun q =>
        [0x01#8, 0x07#8] ++ zoneField z ++ [byteField q.1, byteField q.2.1, byteField q.2.2.1, byteField q.2.2.2] ++
          zeros c.rgbwPad := by
  cases h : vZone zone <;> cases h' : vRgbw r g b w <;>
    simp [rgbwPayload, h, h', bind, Except.bind, Except.map]

theorem zoneInfoPayload_eq (c : Config) (zone : Arg) :
    zoneInfoPayload c zone = (vZone zone).map fun z => [0x78#8] ++ zoneField z ++ zeros c.gziPad := by
  cases h : vZone zone <;> simp [zoneInfoPayload, h, bind, Except.bind, Except.map]

/-! ### Fields of a response -/

theorem popcount16_le (v : Half) : popcount16 v ≤ 16 := by
  simpa [popcount16] using List.countP_le_length (p := fun i => v.getLsbD i) (l := List.range 16)

/-- Stripping takes fill bytes off the right end and nothing else. -/
theorem strip_append (f : Bytes) : ∃ tail, f = strip f ++ tail ∧ ∀ b ∈ tail, isFill b = true := by
  refine ⟨(f.reverse.takeWhile isFill).reverse, ?_, ?_⟩
  · rw [strip, ← List.reverse_append, List.takeWhile_append_dropWhile, List.reverse_reverse]
  · intro b hb
    exact List.mem_takeWhile_imp (List.mem_reverse.mp hb)

theorem strip_length_le (f : Bytes) : (strip f).length ≤ f.length := by
  obtain ⟨tail, h, -⟩ := strip_append f
  conv_rhs => rw [h]
  simp

/-- What is left has no fill byte at its right end. -/
theorem strip_getLast (f : Bytes) : (strip f).getLast?.all (fun b => !isFill b) = true := by
  rw [strip, List.getLast?_reverse]
  cases h : (f.reverse.dropWhile isFill).head? with
  | none => rfl
  | some b =>
    have := List.head?_dropWhile_not isFill f.reverse
    rw [h] at this
    simpa using this

end Sys2Proof.Machine
end

