-- ==== Sys2Proof/Laws/Meanings.lean ====
section
/-! SUPPORT. What the meanings that share a shape can do, said once per shape. -/

namespace Sys2Proof.Machine

@[simp] theorem command_error (f : Mode) (c : ArgCause) (s : State) : command f (.error c) s = raise (.arg c) s := rfl

@[simp] theorem command_ok (f : Mode) (p : Bytes) (s : State) : command f (.ok p) s = deliver f p s := rfl

/-- A command ends in its error, its payload or its frame; only the frame advances `SEQ` (42 R130, R131). -/
theorem command_cases {f : Mode} {payload : Except ArgCause Bytes} {s t : State} (h : command f payload s = .next t) :
    (∃ c, payload = .error c ∧ t = { s with result := some (.err (.arg c)) }) ∨
    (∃ p, payload = .ok p ∧ f = .payload ∧ t = { s with result := some (.ok (.payload p)) }) ∨
    (∃ p, payload = .ok p ∧ f = .frame ∧
      t = { s with seq := s.seq + 1#8, result := some (.ok (.frame (frameBytes s.cfg s.seq p))) }) := by
  cases payload with
  | error c => exact .inl ⟨c, rfl, by simpa using h.symm⟩
  | ok p =>
    cases f with
    | payload => exact .inr (.inl ⟨p, rfl, rfl, by simpa using h.symm⟩)
    | frame => exact .inr (.inr ⟨p, rfl, rfl, by simpa using h.symm⟩)

/-- The response parsers and DEC end in an output or an error and write no state. -/
theorem answer_cases {r : Except Err Output} {s t : State} (h : answer r s = .next t) :
    (∃ o, r = .ok o ∧ t = { s with result := some (.ok o) }) ∨
    (∃ e, r = .error e ∧ t = { s with result := some (.err e) }) := by
  cases r with
  | ok o => exact .inl ⟨o, rfl, by simpa using h.symm⟩
  | error e => exact .inr ⟨e, rfl, by simpa using h.symm⟩

theorem parseResponse_of_unframe {c : Config} {extract : Config → Bytes → Except DecCause Output} {raw : Bytes}
    {mk : Byte} {p : Bytes} (h : unframe c raw = .ok (mk, p)) :
    parseResponse c extract raw = (extract c p).mapError .dec := by
  simp only [parseResponse, h]
  cases extract c p <;> rfl

theorem parseResponse_of_error {c : Config} {extract : Config → Bytes → Except DecCause Output} {raw : Bytes}
    {e : DecCause} (h : unframe c raw = .error e) : parseResponse c extract raw = .error (.dec e) := by
  simp only [parseResponse, h]

/-! ### A step -/

theorem step_idle {s : State} (h : s.inputs = []) : step s = .next s := by
  simp [step, State.takeInput_eq, h, idle]

theorem step_reset {s : State} {rest : List HostInput} (h : s.inputs = .reset :: rest) :
    step s = .next { s with seq := 0x00#8, inputs := rest, result := none } := by
  simp [step, State.takeInput_eq, h, applyReset]

theorem step_request {s : State} {r : Request} {rest : List HostInput} (h : s.inputs = .request r :: rest) :
    step s = match decode s.cfg.argW r with
      | .ok i    => exec i { s with inputs := rest }
      | .error e => refuse e := by
  cases hd : decode s.cfg.argW r <;> simp [step, State.takeInput_eq, h, hd]

/-- Everything a step that answers a next state can do: stay idle, reset, or run the instruction a request decodes to. -/
theorem step_cases {s t : State} (h : step s = .next t) :
    (s.inputs = [] ∧ t = s) ∨
    (∃ rest, s.inputs = .reset :: rest ∧ t = { s with seq := 0x00#8, inputs := rest, result := none }) ∨
    (∃ r rest i, s.inputs = .request r :: rest ∧ decode s.cfg.argW r = .ok i ∧
      exec i { s with inputs := rest } = .next t) := by
  cases hin : s.inputs with
  | nil =>
    rw [step_idle hin] at h
    exact .inl ⟨rfl, (Host.Outcome.next.inj h).symm⟩
  | cons x rest =>
    cases x with
    | reset =>
      rw [step_reset hin] at h
      exact .inr (.inl ⟨rest, rfl, (Host.Outcome.next.inj h).symm⟩)
    | request r =>
      rw [step_request hin] at h
      cases hd : decode s.cfg.argW r with
      | error e => rw [hd] at h; cases e; cases h
      | ok i => rw [hd] at h; exact .inr (.inr ⟨r, rest, i, rfl, hd, h⟩)

end Sys2Proof.Machine
end

