-- ==== Sys2Proof/Laws/PerInstr.lean ====
section
/-! SUPPORT. Per instruction: the request that asks for it selects its operation again, whatever its operands and
whatever the width of the argument port (30 R80). -/

namespace Sys2Proof.Laws.SelectorKept

/-- The constructor of an instruction, its operands forgotten. -/
def bare : Instr → Instr
  | .seqrd              => .seqrd
  | .seqadv             => .seqadv
  | .enc _              => .enc []
  | .dec _              => .dec []
  | .ping _             => .ping .payload
  | .getnz _            => .getnz .payload
  | .pwron _ _          => .pwron .payload .nonInt
  | .pwroff _ _         => .pwroff .payload .nonInt
  | .mpwron _           => .mpwron .payload
  | .mpwroff _          => .mpwroff .payload
  | .brt _ _ _          => .brt .payload .nonInt .nonInt
  | .temp _ _ _         => .temp .payload .nonInt .nonInt
  | .rgbw _ _ _ _ _ _   => .rgbw .payload .nonInt .nonInt .nonInt .nonInt .nonInt
  | .getzi _ _          => .getzi .payload .nonInt
  | .rspnz _            => .rspnz []
  | .rspzi _            => .rspzi []

/-- Decoding the request for `i` gives an instruction of the same constructor. -/
def Statement (i : Instr) : Prop := ∀ argW, ∃ j, decode argW (encode argW i) = .ok j ∧ bare j = bare i

theorem seqrd : Statement .seqrd := fun _ => ⟨_, rfl, rfl⟩
theorem seqadv : Statement .seqadv := fun _ => ⟨_, rfl, rfl⟩
theorem enc (input : Bytes) : Statement (.enc input) := fun _ => ⟨_, rfl, rfl⟩
theorem dec (input : Bytes) : Statement (.dec input) := fun _ => ⟨_, rfl, rfl⟩
theorem ping (f : Mode) : Statement (.ping f) := fun _ => ⟨_, rfl, rfl⟩
theorem getnz (f : Mode) : Statement (.getnz f) := fun _ => ⟨_, rfl, rfl⟩
theorem pwron (f : Mode) (zone : Arg) : Statement (.pwron f zone) := fun _ => ⟨_, rfl, rfl⟩
theorem pwroff (f : Mode) (zone : Arg) : Statement (.pwroff f zone) := fun _ => ⟨_, rfl, rfl⟩
theorem mpwron (f : Mode) : Statement (.mpwron f) := fun _ => ⟨_, rfl, rfl⟩
theorem mpwroff (f : Mode) : Statement (.mpwroff f) := fun _ => ⟨_, rfl, rfl⟩
theorem brt (f : Mode) (zone level : Arg) : Statement (.brt f zone level) := fun _ => ⟨_, rfl, rfl⟩
theorem temp (f : Mode) (zone value : Arg) : Statement (.temp f zone value) := fun _ => ⟨_, rfl, rfl⟩
theorem rgbw (f : Mode) (zone r g b w : Arg) : Statement (.rgbw f zone r g b w) := fun _ => ⟨_, rfl, rfl⟩
theorem getzi (f : Mode) (zone : Arg) : Statement (.getzi f zone) := fun _ => ⟨_, rfl, rfl⟩
theorem rspnz (input : Bytes) : Statement (.rspnz input) := fun _ => ⟨_, rfl, rfl⟩
theorem rspzi (input : Bytes) : Statement (.rspzi input) := fun _ => ⟨_, rfl, rfl⟩

end Sys2Proof.Laws.SelectorKept
end

