-- ==== Sys2Proof/Tests/Slice0.lean ====
section
/-! SUPPORT. Tests: requests and vectors of the spec (95), ill-formed terms that WellFormed refuses, and a witness for
each statement that has hypotheses. Every expected value is copied from 95_test_vectors.md or from the rule named. -/

namespace Sys2Proof.Tests

open Sys2Proof.Machine
open Host (Outcome)

/-! ### Helpers -/

/-- A byte string as the spec prints it: `n` bytes, the first the most significant of the number. -/
def hex (n w : Nat) : Bytes := (bytesOfNat n w).reverse

/-- The reset state with another `SEQ`. -/
def withSeq (n : Byte) : State := { State.reset with seq := n }

/-- `SEQ` and the result after a step that completes. -/
def seen (o : Outcome State Fault Refusal) : Option (Byte × Option Result) :=
  match o with
  | .next t    => some (t.seq, t.result)
  | .fault _   => none
  | .refused _ => none

/-- What an operation that ends in `Ok` shows. -/
def okay (seq : Byte) (o : Output) : Option (Byte × Option Result) := some (seq, some (.ok o))

/-- What an operation that ends in `Err` shows. -/
def bad (seq : Byte) (e : Err) : Option (Byte × Option Result) := some (seq, some (.err e))

/-! ### Decoding: requests written out from 30 R80, R81 -/

theorem test_decode_sequence : decode 32 { opsel := 0x01#8, f := true, args := [.nonInt], input := [] } = .ok .seqadv := by
  decide

theorem test_decode_codec : decode 32 { opsel := 0x03#8, f := false, args := [], input := [0x55#8] } = .ok (.dec [0x55#8]) := by
  decide

theorem test_decode_signed :
    decode 32 { opsel := 0x17#8, f := true, args := [.int 0xFFFFFFFF, .int 0x80000000], input := [] } =
      .ok (.temp .frame (.int (-1)) (.int (-2147483648))) := by decide

theorem test_decode_response : decode 32 { opsel := 0x20#8, f := false, args := [], input := [0x7E#8] } = .ok (.rspnz [0x7E#8]) := by
  decide

theorem test_decode_unassigned : decode 32 (.plain 0x1A#8) = .error (.unassignedOpsel 0x1A#8) := by decide

/-- Each selector of 30 R80 selects its operation. -/
theorem test_decode_selectors :
    ([0x00#8, 0x01#8, 0x02#8, 0x03#8, 0x10#8, 0x11#8, 0x12#8, 0x13#8, 0x14#8, 0x15#8, 0x16#8, 0x17#8, 0x18#8, 0x19#8,
      0x20#8, 0x21#8].map fun b => (decode 32 (.plain b)).toOption) =
    [some .seqrd, some .seqadv, some (.enc []), some (.dec []), some (.ping .payload), some (.getnz .payload),
      some (.pwron .payload .nonInt), some (.pwroff .payload .nonInt), some (.mpwron .payload), some (.mpwroff .payload),
      some (.brt .payload .nonInt .nonInt), some (.temp .payload .nonInt .nonInt),
      some (.rgbw .payload .nonInt .nonInt .nonInt .nonInt .nonInt), some (.getzi .payload .nonInt),
      some (.rspnz []), some (.rspzi [])] := by decide

/-- The table's row of BRT with a zone and a level in its fields (30 R84; K16), the first byte lowest. -/
theorem test_decode_table_brt : decodeTableWord 48 0xFF0080000207 = some (.brt .payload (.int 16) (.int 255)) := by decide

/-- RGBW's row with the bytes of K22. -/
theorem test_decode_table_rgbw :
    decodeTableWord 88 0x0000004030201000080701 =
      some (.rgbw .payload (.int 4) (.int 16) (.int 32) (.int 48) (.int 64)) := by decide

/-- The literal of 30 R65 reads as PING. -/
theorem test_decode_table_ping : decodeTableWord 96 0x0000790001000080E1800080 = some (.ping .payload) := by decide

/-- The rows with a wire form, their fields all zero, and the rows with a selector. -/
theorem test_decode_table_rows :
    [decodeTableWord 40 0x010000010A, decodeTableWord 40 0x000000010A, decodeTableWord 40 0x01FFFF030B,
      decodeTableWord 40 0x00FFFF030B, decodeTableWord 48 0x000000000207, decodeTableWord 48 0x00000000020D,
      decodeTableWord 88 0x0701, decodeTableWord 40 0x78, decodeTableWord 8 0x00, decodeTableWord 8 0x21] =
    [some (.pwron .payload .nonInt), some (.pwroff .payload .nonInt), some (.mpwron .payload), some (.mpwroff .payload),
      some (.brt .payload .nonInt (.int 0)), some (.temp .payload .nonInt (.int 0)),
      some (.rgbw .payload .nonInt (.int 0) (.int 0) (.int 0) (.int 0)), some (.getzi .payload .nonInt),
      some .seqrd, some (.rspzi [])] := by decide

theorem test_fetch_word_runs_first : seen (step (State.reset.withFetchWord 40 0x010004010A)) =
    okay 0x00#8 (.payload [0x0A#8, 0x01#8, 0x04#8, 0x00#8, 0x01#8]) := by decide

/-! ### WellFormed: an ill-formed term for each check (00 R11) -/

theorem test_ill_formed_high :
    [Instr.pwron .frame (.int 2147483648), .pwroff .frame (.int 2147483648), .brt .frame (.int 1) (.int 2147483648),
      .temp .frame (.int 1) (.int 2147483648), .rgbw .frame (.int 1) (.int 0) (.int 0) (.int 0) (.int 2147483648),
      .getzi .frame (.int 2147483648)].all (fun i => !i.wellFormed 32) = true := by decide

theorem test_ill_formed_low :
    [Instr.brt .frame (.int (-2147483649)) (.int 1), .temp .frame (.int (-2147483649)) .nonInt,
      .rgbw .frame (.int (-2147483649)) (.int 0) (.int 0) (.int 0) (.int 0),
      .rgbw .frame .nonInt (.int (-2147483649)) (.int 0) (.int 0) (.int 0),
      .rgbw .frame .nonInt (.int 0) (.int (-2147483649)) (.int 0) (.int 0),
      .rgbw .frame .nonInt (.int 0) (.int 0) (.int (-2147483649)) (.int 0)].all (fun i => !i.wellFormed 32) = true := by decide

theorem test_well_formed_ends : (Instr.brt .frame (.int 2147483647) (.int (-2147483648))).wellFormed 32 = true := by decide

/-! ### Vectors of 95 -/

/-- Q2. -/
theorem test_seqrd : seen (exec .seqrd (withSeq 0x2A#8)) = okay 0x2A#8 (.byte 0x2A#8) := by decide

/-- Q5. -/
theorem test_seqadv_wraps : seen (exec .seqadv (withSeq 0xFF#8)) = okay 0x00#8 .nothing := by decide

/-- E3. -/
theorem test_enc_no_stuffing : seen (exec (.enc (hex 2 0x7E7E)) (withSeq 0x00#8)) =
    okay 0x01#8 (.frame (hex 10 0x55AA5AA57E007E7E217E)) := by decide

/-- The bound of 43 R167, at `MAXPAY = 12`. -/
theorem test_enc_too_long :
    seen (exec (.enc (zeros 13)) { State.reset with seq := 0x05#8, cfg := { Config.default with maxPay := 12 } }) =
      bad 0x05#8 (.arg .aLen) := by decide

/-- X2. -/
theorem test_dec_ping : seen (exec (.dec (hex 20 0x55AA5AA57E01800080E18000000100790000017E)) (withSeq 0x33#8)) =
    okay 0x33#8 (.decoded 0x01#8 (hex 12 0x800080E18000000100790000)) := by decide

/-- X5, X6, X8, X10, X12, X15, X16. -/
theorem test_dec_errors :
    ([hex 0 0, hex 7 0x55AA5AA57E0080, hex 20 0x54AA5AA57E00800080E18000000100790000007E,
      hex 20 0x55AA5AA57E00800080E18000000100790000007F, hex 20 0x55AA5AA57E00800080E18000000100790000027E,
      hex 20 0x00AA5AA57E00800080E180000001007900000000, hex 20 0x55AA5AA57E00800080E180000001007900000100].map
        fun raw => seen (exec (.dec raw) (withSeq 0x00#8))) =
    [bad 0#8 (.dec .dLen), bad 0#8 (.dec .dLen), bad 0#8 (.dec .dPreamble), bad 0#8 (.dec .dTerm), bad 0#8 (.dec .dChk),
      bad 0#8 (.dec .dPreamble), bad 0#8 (.dec .dTerm)] := by decide

/-- K3: the wrap. -/
theorem test_ping_frame : seen (exec (.ping .frame) (withSeq 0xFF#8)) =
    okay 0x00#8 (.frame (hex 20 0x55AA5AA57EFF800080E18000000100790000FF7E)) := by decide

/-- S2. -/
theorem test_ping_payload : seen (exec (.ping .payload) (withSeq 0x00#8)) =
    okay 0x00#8 (.payload (hex 12 0x800080E18000000100790000)) := by decide

/-- P1 line 2. -/
theorem test_getnz_frame : seen (exec (.getnz .frame) (withSeq 0x01#8)) =
    okay 0x02#8 (.frame (hex 20 0x55AA5AA57E01800080E18000000100790000017E)) := by decide

/-- K8: the bit in the second mask byte. -/
theorem test_pwron_frame : seen (exec (.pwron .frame (.int 9)) (withSeq 0x07#8)) =
    okay 0x08#8 (.frame (hex 13 0x55AA5AA57E070A01000101397E)) := by decide

/-- V1: 257 is not truncated to 1. -/
theorem test_pwron_range : seen (exec (.pwron .frame (.int 257)) (withSeq 0x07#8)) = bad 0x07#8 (.arg .aRange) := by decide

/-- K11. -/
theorem test_pwroff_frame : seen (exec (.pwroff .frame (.int 16)) (withSeq 0x00#8)) =
    okay 0x01#8 (.frame (hex 13 0x55AA5AA57E000A01008000B07E)) := by decide

/-- P4 line 3. -/
theorem test_pwroff_type : seen (exec (.pwroff .frame .nonInt) (withSeq 0x00#8)) = bad 0x00#8 (.arg .aType) := by decide

/-- K12. -/
theorem test_mpwron_frame : seen (exec (.mpwron .frame) (withSeq 0x00#8)) =
    okay 0x01#8 (.frame (hex 13 0x55AA5AA57E000B03FFFF01327E)) := by decide

/-- K12's remark: `BCAST_MASK = 0x000F` low byte first. -/
theorem test_mpwron_mask :
    seen (exec (.mpwron .payload) { State.reset with cfg := { Config.default with bcastMask := 0x000F#16 } }) =
      okay 0x00#8 (.payload (hex 5 0x0B030F0001)) := by decide

/-- K13. -/
theorem test_mpwroff_frame : seen (exec (.mpwroff .frame) (withSeq 0x00#8)) =
    okay 0x01#8 (.frame (hex 13 0x55AA5AA57E000B03FFFF00317E)) := by decide

/-- K15. -/
theorem test_brt_frame : seen (exec (.brt .frame (.int 3) (.int 128)) (withSeq 0x01#8)) =
    okay 0x02#8 (.frame (hex 14 0x55AA5AA57E01070204000080B37E)) := by decide

/-- V2 and V5: level 0, and the zone first. -/
theorem test_brt_errors :
    ([(.int 1, .int 0), (.int 1, .int 256), (.int 0, .int 0), (.nonInt, .int 0), (.int 1, .nonInt)].map
      fun (z, l) => seen (exec (.brt .frame z l) (withSeq 0x03#8))) =
    [bad 3#8 (.arg .aZero), bad 3#8 (.arg .aRange), bad 3#8 (.arg .aRange), bad 3#8 (.arg .aType),
      bad 3#8 (.arg .aType)] := by decide

/-- K18. -/
theorem test_temp_frame : seen (exec (.temp .frame (.int 8) (.int 255)) (withSeq 0x00#8)) =
    okay 0x01#8 (.frame (hex 14 0x55AA5AA57E000D02800000FFB37E)) := by decide

/-- V3: zero is legal here; 256 is not. -/
theorem test_temp_ends :
    ([.int 0, .int (-1), .int 256].map fun v => seen (exec (.temp .payload (.int 1) v) (withSeq 0x00#8))) =
    [okay 0#8 (.payload (hex 6 0x0D0201000000)), bad 0#8 (.arg .aRange), bad 0#8 (.arg .aRange)] := by decide

/-- K22. -/
theorem test_rgbw_frame : seen (exec (.rgbw .frame (.int 4) (.int 16) (.int 32) (.int 48) (.int 64)) (withSeq 0x03#8)) =
    okay 0x04#8 (.frame (hex 19 0x55AA5AA57E030107080010203040000000D87E)) := by decide

/-- V4. -/
theorem test_rgbw_errors :
    ([(.int 0, .int 0, .int 0, .int 0), (.int 0, .int 0, .int 0, .int 256), (.int 0, .int 0, .nonInt, .int 0),
      (.int 256, .nonInt, .int 0, .int 0), (.nonInt, .int 256, .int 0, .int 0)].map
        fun (r, g, b, w) => seen (exec (.rgbw .frame (.int 1) r g b w) (withSeq 0x00#8))) =
    [bad 0#8 (.arg .aAllZero), bad 0#8 (.arg .aRange), bad 0#8 (.arg .aType), bad 0#8 (.arg .aRange),
      bad 0#8 (.arg .aType)] := by decide

/-- K25. -/
theorem test_getzi_frame : seen (exec (.getzi .frame (.int 12)) (withSeq 0x00#8)) =
    okay 0x01#8 (.frame (hex 13 0x55AA5AA57E007800080000A57E)) := by decide

/-- K24's remark: `GZI_PAD = 0`. -/
theorem test_getzi_no_padding :
    seen (exec (.getzi .payload (.int 1)) { State.reset with cfg := { Config.default with gziPad := 0 } }) =
      okay 0x00#8 (.payload (hex 3 0x780100)) := by decide

/-- N9: marker, head and order do not matter. -/
theorem test_rspnz_counts :
    seen (exec (.rspnz (hex 22 0x55AA5AA57E2A000102030405060708090A0B0F0FAF7E)) (withSeq 0x00#8)) =
      okay 0x00#8 (.number 8) := by decide

/-- N5, N10, N12. -/
theorem test_rspnz_more :
    ([hex 22 0x55AA5AA57E00800080E180000001007900000180817E, hex 21 0x55AA5AA57E00800080E18000000100790000FFFF7E,
      hex 22 0x55AA5AA57E00800080E18000000100790000FFFF007E].map fun raw => seen (exec (.rspnz raw) (withSeq 0x00#8))) =
    [okay 0#8 (.number 2), bad 0#8 (.dec .dShort), bad 0#8 (.dec .dChk)] := by decide

/-- Z4 ("Kuchyň top"), Z16 and Z23 (a character of four bytes). -/
theorem test_rspzi_names :
    ([hex 37 0x55AA5AA57E02800080E18000000100790000214B75636879C58820746F700000000000E77E,
      hex 37 0x55AA5AA57E00800080E180000001007900001141002042200020002000200020002000747E,
      hex 37 0x55AA5AA57E00800080E18000000100790000414C616D7020F09F92A100000000000000AD7E].map
        fun raw => seen (exec (.rspzi raw) (withSeq 0x00#8))) =
    [okay 0#8 (.zoneInfo .cct (hex 11 0x4B75636879C58820746F70)), okay 0#8 (.zoneInfo .dimmer (hex 4 0x41002042)),
      okay 0#8 (.zoneInfo .rgbw (hex 9 0x4C616D7020F09F92A1))] := by decide

/-- Z18, Z20, Z21, Z22, Z25, Z26. -/
theorem test_rspzi_errors :
    ([hex 36 0x55AA5AA57E00800080E1800000010079000011414141414141414141414141414141E07E,
      hex 37 0x55AA5AA57E00800080E1800000010079000021414141414141414141414141414141C5B57E,
      hex 37 0x55AA5AA57E00800080E1800000010079000021C0804100000000000000000000000000A27E,
      hex 37 0x55AA5AA57E00800080E1800000010079000021EDA080000000000000000000000000002E7E,
      hex 37 0x55AA5AA57E00800080E1800000010079000002FF000000000000000000000000000000017E,
      hex 37 0x55AA5AA57E00800080E18000000100790000515A6F6E65205247422B43435400000000007E].map
        fun raw => seen (exec (.rspzi raw) (withSeq 0x00#8))) =
    [bad 0#8 (.dec .dShort), bad 0#8 (.dec .dUtf8), bad 0#8 (.dec .dUtf8), bad 0#8 (.dec .dUtf8), bad 0#8 (.dec .dZtype),
      bad 0#8 (.dec .dChk)] := by decide

/-- 44 R197: the sixth character of "Kuchyň top" is U+0148; Z23's is U+1F4A1. -/
theorem test_name_text :
    nameText (hex 11 0x4B75636879C58820746F70) =
      some [0x4B, 0x75, 0x63, 0x68, 0x79, 0x148, 0x20, 0x74, 0x6F, 0x70] ∧
    nameText (hex 4 0xF09F92A1) = some [0x1F4A1] := by decide

/-- 43 R164: under `CHK_ZERO` the checksum position holds `00` (K6's remark). -/
theorem test_checksum_zero :
    seen (exec (.pwron .frame (.int 3)) { State.reset with cfg := { Config.default with chk := .zero } }) =
      okay 0x01#8 (.frame (hex 13 0x55AA5AA57E000A01040001007E)) := by decide

/-- 60 R211 to R213: the numeric codes of an error. -/
theorem test_status_codes :
    (Result.err (.arg .aLen)).status = 1#2 ∧ (Result.err (.arg .aLen)).causeCode = 5#3 ∧
    (Result.err (.dec .dUtf8)).status = 2#2 ∧ (Result.err (.dec .dUtf8)).causeCode = 7#3 := by decide

/-! ### Witnesses: every hypothesis of every statement can be met, at the ends of its range -/

/-- A request of one zone. -/
def zoneRequest (opsel : Byte) (f : Bool) (zone : PortArg) : Request := { opsel := opsel, f := f, args := [zone], input := [] }

/-- The frame S3 of the Ping payload, marker `00`. -/
def pingFrame : Bytes := hex 20 0x55AA5AA57E00800080E18000000100790000007E

/-- The state after an operation whose result is `r` and which advanced to `n`. -/
def after (n : Byte) (r : Result) : State := { State.reset with seq := n, result := some r }

theorem witness_DecodeOfEncode :
    10 ≤ 32 ∧ (Instr.rgbw .frame (.int (-2147483648)) (.int 2147483647) .nonInt (.int 0) (.int (-1))).wellFormed 32 = true ∧
    10 ≤ 10 ∧ (Instr.brt .payload (.int 511) (.int (-512))).wellFormed 10 = true := by decide

theorem witness_DecodedInstructionsAreWellFormed :
    10 ≤ 10 ∧ decode 10 (zoneRequest 0x12#8 true (.int 512)) = .ok (.pwron .frame (.int (-512))) := by decide

theorem witness_UnassignedSelectorIsRefused :
    (State.reset.issue (.plain 0x22#8)).inputs = .request (.plain 0x22#8) :: [] ∧
    (Request.plain 0x22#8).opsel ∉ assignedSelectors ∧ (0x04#8 : Byte) ∉ assignedSelectors := by decide

/-- PING with other arguments and bytes, ENC with another `F` and arguments, PWRON with a surplus argument. -/
theorem witness_UnusedRequestFieldsAreIgnored :
    (0x10#8 ∈ modeSelectors ∧ operandCount 0x10#8 = 0 ∧ 0x10#8 ∉ bytesSelectors) ∧
    (0x02#8 ∉ modeSelectors ∧ operandCount 0x02#8 = 0 ∧ 0x02#8 ∈ bytesSelectors) ∧
    (∀ k, k < operandCount 0x12#8 → [PortArg.int 3][k]? = [PortArg.int 3, .int 4][k]?) := by decide

/-- An RGBW request whose white the host leaves out. -/
def rgbwWithoutWhite : Request :=
  { opsel := 0x18#8, f := true, args := [.int 16, .int 0xFF, .int 0x00, .int 0x01], input := [] }

theorem witness_AbsentOperandFailsItsValidation :
    (State.reset.issue (.plain 0x19#8)).inputs = .request (.plain 0x19#8) :: [] ∧ 1 ≤ operandCount 0x19#8 ∧
    (Request.plain 0x19#8).args = [] ∧
    (State.reset.issue (zoneRequest 0x18#8 false (.int 16))).inputs = .request (zoneRequest 0x18#8 false (.int 16)) :: [] ∧
    10 ≤ State.reset.cfg.argW ∧ 2 ≤ operandCount 0x18#8 ∧ 2 ≤ operandCount 0x16#8 ∧
    (zoneRequest 0x18#8 false (.int 16)).args = [.int (16 : Nat)] := by decide

/-- The fourth clause at its longest: red, green and blue given, white left out. -/
theorem witness_AbsentComponentFailsItsValidation :
    (State.reset.issue rgbwWithoutWhite).inputs = .request rgbwWithoutWhite :: [] ∧ 10 ≤ State.reset.cfg.argW ∧
    rgbwWithoutWhite.opsel = 0x18#8 ∧ [0xFF#8, 0x00#8, 0x01#8].length ≤ 3 ∧
    rgbwWithoutWhite.args = .int (16 : Nat) :: [0xFF#8, 0x00#8, 0x01#8].map (fun c => .int c.toNat) := by decide

theorem witness_PortArgumentsAreSigned :
    10 ≤ 32 ∧ 2147483647 < 2 ^ (32 - 1) ∧ 2 ^ (32 - 1) ≤ 2147483648 ∧ 4294967295 < 2 ^ 32 ∧
    (PortArg.int 2147483648).read 32 = .int (-2147483648) ∧ (PortArg.int 4294967295).read 32 = .int (-1) := by decide

theorem witness_PayloadsBelongToTheirTableRows :
    modeOf (.brt .payload (.int 16) (.int 255)) = some .payload ∧ Instr.brt .payload (.int 16) (.int 255) ≠ .getnz .payload ∧
    State.reset.cfg.bcastMask = 0xFFFF#16 ∧ State.reset.cfg.rgbwPad = 3 ∧ State.reset.cfg.gziPad = 2 ∧
    10 ≤ State.reset.cfg.argW ∧
    exec (.brt .payload (.int 16) (.int 255)) State.reset =
      .next { State.reset with result := some (.ok (.payload (hex 6 0x0702008000FF))) } :=
  ⟨rfl, by decide, rfl, rfl, rfl, by decide, rfl⟩

/-- A payload of PING's row and GETNZ's, and one of PWRON's row only. -/
theorem witness_TableRowsAreDisjoint :
    (wireRows.filter (·.matches pingPayload)).map (·.opsel) = [0x10#8, 0x11#8] ∧
    (wireRows.filter (·.matches (hex 5 0x0A01040001))).map (·.opsel) = [0x12#8] := by decide

theorem witness_StepRunsTheDecodedInstruction :
    (State.reset.issue (zoneRequest 0x12#8 true (.int 3))).inputs = .request (zoneRequest 0x12#8 true (.int 3)) :: [] ∧
    decode State.reset.cfg.argW (zoneRequest 0x12#8 true (.int 3)) = .ok (.pwron .frame (.int 3)) := by decide

theorem witness_IdleStepHoldsTheState : State.reset.inputs = [] := rfl

/-- A reset input, a step from it, and what that step leaves. -/
theorem witness_ResetInputRestoresTheResetState :
    ({ withSeq 0x2A#8 with inputs := [.reset] } : State).inputs = .reset :: [] ∧
    step { withSeq 0x2A#8 with inputs := [.reset] } = .next State.reset := ⟨rfl, rfl⟩

/-- The same state serves the statement about `SEQ` after reset. -/
theorem witness_CounterIsZeroAfterReset :
    step { withSeq 0xFF#8 with inputs := [.reset] } = .next State.reset := rfl

/-- A state that meets the invariant, whose step builds a frame, and the state it leaves. -/
theorem witness_EveryStepKeepsTheInvariant :
    (State.reset.issue (.command 32 0x10#8 .frame [])).Inv ∧
    step (State.reset.issue (.command 32 0x10#8 .frame [])) = .next (after 0x01#8 (.ok (.frame pingFrame))) :=
  ⟨⟨(by decide : Config.default.Conforming), fun _ h => by cases h⟩, rfl⟩

theorem witness_StepNeverChangesTheParameters :
    step (State.reset.issue (.plain 0x01#8)) = .next (after 0x01#8 (.ok .nothing)) := rfl

theorem witness_OperationsLeaveTheRestUnchanged :
    exec .seqrd (withSeq 0xFF#8) = .next (after 0xFF#8 (.ok (.byte 0xFF#8))) ∧ advances .seqrd = false ∧
    advances (.ping .payload) = false ∧ advances (.dec []) = false := ⟨rfl, rfl, rfl, rfl⟩

/-- An operation that advances, one that fails and does not, and a step. -/
theorem witness_OnlyTheListedOperationsAdvance :
    exec (.ping .frame) State.reset = .next (after 0x01#8 (.ok (.frame pingFrame))) ∧
    exec (.pwron .frame (.int 0)) State.reset = .next (after 0x00#8 (.err (.arg .aRange))) ∧
    step (State.reset.issue (.command 32 0x10#8 .frame [])) = .next (after 0x01#8 (.ok (.frame pingFrame))) :=
  ⟨rfl, rfl, rfl⟩

/-- P1 lines 1 to 3 without a SEQADV: markers `00` and `01`, the error in between takes none. -/
theorem witness_FramesCarryConsecutiveMarkers :
    Instr.seqadv ∉ [Instr.ping .frame, .brt .frame (.int 3) (.int 0), .getnz .frame] ∧
    ((runAll [.ping .frame, .brt .frame (.int 3) (.int 0), .getnz .frame] State.reset).1.filterMap
      Result.frame?).map (fun f => f[5]?) = [some 0x00#8, some 0x01#8] := by decide

theorem witness_ErrorsLeaveTheStateUnchanged :
    exec (.pwron .frame (.int 17)) State.reset = .next (failed (.arg .aRange) State.reset) ∧
    (failed (.arg .aRange) State.reset).result = some (.err (.arg .aRange)) := ⟨rfl, rfl⟩

theorem witness_OperationsReturnOnlyTheirErrors :
    exec (.dec []) State.reset = .next (failed (.dec .dLen) State.reset) ∧
    (failed (.dec .dLen) State.reset).result = some (.err (.dec .dLen)) := ⟨rfl, rfl⟩

theorem witness_ReadingOperationsAreIdempotent :
    advances (.getzi .payload (.int 16)) = false ∧
    exec (.getzi .payload (.int 16)) State.reset = .next (after 0x00#8 (.ok (.payload (hex 5 0x7800800000)))) := ⟨rfl, rfl⟩

/-- V1 and K5, K9: both ends of the zones, and the integers next to them. -/
theorem witness_PowerCommandsSwitchOneZone :
    (1 ≤ 1 ∧ 16 ≤ 16 ∧ ((0 : Int) < 1 ∨ 16 < (0 : Int)) ∧ ((17 : Int) < 1 ∨ 16 < (17 : Int))) ∧
    seen (exec (.pwron .payload (.int 1)) State.reset) = okay 0#8 (.payload (hex 5 0x0A01010001)) ∧
    seen (exec (.pwroff .payload (.int 16)) State.reset) = okay 0#8 (.payload (hex 5 0x0A01008000)) ∧
    seen (exec (.pwron .frame (.int 0)) State.reset) = bad 0#8 (.arg .aRange) ∧
    seen (exec (.pwroff .frame (.int 17)) State.reset) = bad 0#8 (.arg .aRange) := by decide

/-- V2, K14, K16: both ends of the levels, and the integers next to them. -/
theorem witness_BrightnessCommandSetsALevel :
    (1 ≤ 1 ∧ 255 ≤ 255 ∧ ((-1 : Int) < 0 ∨ 255 < (-1 : Int)) ∧ ((256 : Int) < 0 ∨ 255 < (256 : Int))) ∧
    seen (exec (.brt .payload (.int 1) (.int 1)) State.reset) = okay 0#8 (.payload (hex 6 0x070201000001)) ∧
    seen (exec (.brt .payload (.int 16) (.int 255)) State.reset) = okay 0#8 (.payload (hex 6 0x0702008000FF)) ∧
    seen (exec (.brt .frame (.int 1) (.int (-1))) State.reset) = bad 0#8 (.arg .aRange) ∧
    seen (exec (.brt .frame (.int 16) (.int 256)) State.reset) = bad 0#8 (.arg .aRange) ∧
    seen (exec (.brt .frame (.int 16) (.int 0)) State.reset) = bad 0#8 (.arg .aZero) ∧
    seen (exec (.brt .frame (.int 17) .nonInt) State.reset) = bad 0#8 (.arg .aRange) := by decide

/-- V3, K17, K18. -/
theorem witness_TemperatureCommandSetsAValue :
    (0 ≤ 255 ∧ 255 ≤ 255 ∧ ((-1 : Int) < 0 ∨ 255 < (-1 : Int)) ∧ ((256 : Int) < 0 ∨ 255 < (256 : Int))) ∧
    seen (exec (.temp .payload (.int 2) (.int 0)) State.reset) = okay 0#8 (.payload (hex 6 0x0D0202000000)) ∧
    seen (exec (.temp .payload (.int 8) (.int 255)) State.reset) = okay 0#8 (.payload (hex 6 0x0D02800000FF)) ∧
    seen (exec (.temp .frame (.int 16) (.int (-1))) State.reset) = bad 0#8 (.arg .aRange) ∧
    seen (exec (.temp .frame (.int 1) (.int 256)) State.reset) = bad 0#8 (.arg .aRange) ∧
    seen (exec (.temp .frame (.int 0) .nonInt) State.reset) = bad 0#8 (.arg .aRange) := by decide

/-- S7: (0,1,0,0) and (255,255,255,255). -/
theorem witness_ColourCommandSetsFourComponents :
    (0 < 0 + 1 + 0 + 0 ∧ 0 < 255 + 255 + 255 + 255) ∧
    seen (exec (.rgbw .payload (.int 1) (.int 0) (.int 1) (.int 0) (.int 0)) State.reset) =
      okay 0#8 (.payload (hex 11 0x0107010000010000000000)) ∧
    seen (exec (.rgbw .payload (.int 1) (.int 255) (.int 255) (.int 255) (.int 255)) State.reset) =
      okay 0#8 (.payload (hex 11 0x01070100FFFFFFFF000000)) := by decide

/-- V4, V5: a failing component at each end of the list, and the zone before all of them. -/
theorem witness_ColourCommandSetsFourComponents_errors :
    ([Arg.int 256, .nonInt, .int 0, .int 0].filterMap componentCause).head? = some .aRange ∧
    ([Arg.int 0, .int 0, .int 0, .int (-1)].filterMap componentCause).head? = some .aRange ∧
    ([Arg.nonInt, .int 256, .int 0, .int 0].filterMap componentCause).head? = some .aType ∧
    seen (exec (.rgbw .payload (.int 1) (.int 256) .nonInt (.int 0) (.int 0)) State.reset) = bad 0#8 (.arg .aRange) ∧
    seen (exec (.rgbw .payload (.int 0) (.int 0) (.int 0) (.int 0) (.int 0)) State.reset) = bad 0#8 (.arg .aRange) ∧
    seen (exec (.rgbw .payload (.int 16) (.int 0) (.int 0) (.int 0) (.int 0)) State.reset) = bad 0#8 (.arg .aAllZero) := by
  decide

/-- K24, K26. -/
theorem witness_ZoneInfoQueryNamesItsZone :
    seen (exec (.getzi .payload (.int 1)) State.reset) = okay 0#8 (.payload (hex 5 0x7801000000)) ∧
    seen (exec (.getzi .payload (.int 16)) State.reset) = okay 0#8 (.payload (hex 5 0x7800800000)) ∧
    seen (exec (.getzi .frame (.int 17)) State.reset) = bad 0#8 (.arg .aRange) := by decide

/-- The rows of 30 R71's table for zones 1, 8, 9 and 16. -/
theorem witness_ZoneFieldHasExactlyItsBit :
    [zoneField 1, zoneField 8, zoneField 9, zoneField 16] = [hex 2 0x0100, hex 2 0x8000, hex 2 0x0001, hex 2 0x0080] := by
  decide

theorem witness_LittleEndianFieldsRoundTrip : le16 0x8001#16 = [0x01#8, 0x80#8] ∧ unle16 0x01#8 0x80#8 = 0x8001#16 := by
  decide

theorem witness_PayloadsDoNotDependOnTheCounter :
    modeOf (.mpwron .payload) = some .payload ∧ modeOf (.mpwron .frame) = some .frame ∧
    (withSeq 0x07#8).cfg = State.reset.cfg := ⟨rfl, rfl, rfl⟩

/-- A command that succeeds and one that fails, in mode `.P`. -/
theorem witness_FrameModeIsPayloadModeThenEnc :
    State.reset.cfg.Conforming ∧ modeOf (.rgbw .payload (.int 4) (.int 16) (.int 32) (.int 48) (.int 64)) = some .payload ∧
    exec (.rgbw .payload (.int 4) (.int 16) (.int 32) (.int 48) (.int 64)) State.reset =
      .next { State.reset with result := some (.ok (.payload (hex 11 0x0107080010203040000000))) } ∧
    exec (.pwron .payload (.int 0)) State.reset = .next (failed (.arg .aRange) State.reset) :=
  ⟨by decide, rfl, rfl, rfl⟩

/-- `MAXPAY` bytes and one more, at `MAXPAY = 12`. -/
theorem witness_EncFramesThePayload :
    (zeros 12).length ≤ ({ Config.default with maxPay := 12 } : Config).maxPay ∧
    ({ Config.default with maxPay := 12 } : Config).maxPay < (zeros 13).length := by decide

theorem witness_FramesHaveTheEnvelopeLayout :
    exec (.enc []) State.reset = .next (after 0x01#8 (.ok (.frame (hex 8 0x55AA5AA57E00257E)))) ∧
    (after 0x01#8 (.ok (.frame (hex 8 0x55AA5AA57E00257E)))).result = some (.ok (.frame (hex 8 0x55AA5AA57E00257E))) :=
  ⟨rfl, rfl⟩

/-- X3: the empty payload. -/
theorem witness_DecReturnsOnlyWhatAFrameEncloses :
    exec (.dec (hex 8 0x55AA5AA57E00257E)) State.reset =
      .next { State.reset with result := some (.ok (.decoded 0x00#8 [])) } ∧
    frameOf State.reset.cfg.chk 0x00#8 [] = hex 8 0x55AA5AA57E00257E := ⟨rfl, rfl⟩

/-- Inputs of 7, 8, `MAXPAY + 8` and `MAXPAY + 9` bytes at `MAXPAY = 12`; a wrong preamble, terminator, checksum. -/
theorem witness_DecChecksTheEnvelope :
    (hex 7 0x55AA5AA57E0080).length < 8 ∧ 12 + 8 < (zeros 21).length ∧ 8 ≤ (zeros 8).length ∧ (zeros 20).length ≤ 12 + 8 ∧
    (zeros 8).take 5 ≠ [0x55#8, 0xAA#8, 0x5A#8, 0xA5#8, 0x7E#8] ∧ (0x7F#8 : Byte) ≠ 0x7E#8 ∧
    (0x24#8 : Byte) ≠ evalChk .bsum [0x00#8] ∧
    seen (exec (.dec (hex 8 0x55AA5AA57E00257F)) State.reset) = bad 0#8 (.dec .dTerm) ∧
    seen (exec (.dec (hex 8 0x55AA5AA57E00247E)) State.reset) = bad 0#8 (.dec .dChk) ∧
    seen (exec (.dec (hex 8 0x55AA5AA57F002400)) State.reset) = bad 0#8 (.dec .dPreamble) := by decide

theorem witness_EncThenDecGivesThePayloadBack :
    exec (.enc pingPayload) State.reset = .next (after 0x01#8 (.ok (.frame pingFrame))) ∧
    (after 0x01#8 (.ok (.frame pingFrame))).result = some (.ok (.frame pingFrame)) ∧
    (withSeq 0x99#8).cfg = State.reset.cfg := ⟨rfl, rfl, rfl⟩

/-- X3 and X1 under `CHK_BSUM`: the marker (index 5) and the checksum (the last index but one). K6's remark: a frame of
`CHK_ZERO`. -/
theorem witness_OneChangedByteIsDetectedByTheSum :
    exec (.dec pingFrame) State.reset = .next { State.reset with result := some (.ok (.decoded 0x00#8 pingPayload)) } ∧
    State.reset.cfg.chk = .bsum ∧ 5 < pingFrame.length - 1 ∧ 18 < pingFrame.length - 1 ∧ pingFrame[5]? ≠ some 0x01#8 ∧
    pingFrame[18]? ≠ some 0x02#8 ∧
    exec (.dec (hex 8 0x55AA5AA57E2A007E)) { State.reset with cfg := { Config.default with chk := .zero } } =
      .next { State.reset with cfg := { Config.default with chk := .zero }, result := some (.ok (.decoded 0x2A#8 [])) } ∧
    5 < (hex 8 0x55AA5AA57E2A007E).length - 2 :=
  ⟨rfl, rfl, by decide, by decide, by decide, by decide, rfl, by decide⟩

/-- Payloads of `NZ_MASK_OFF + 2` and `NZ_MASK_OFF + 1` bytes, and an envelope failure (N14). -/
theorem witness_RspnzCountsThePresentZones :
    (pingPayload ++ [0xFF#8, 0x00#8])[12]? = some 0xFF#8 ∧ (pingPayload ++ [0xFF#8, 0x00#8])[13]? = some 0x00#8 ∧
    (pingPayload ++ [0xFF#8]).length < 12 + 2 ∧
    seen (exec (.rspnz (frameOf .bsum 0x00#8 (pingPayload ++ [0xFF#8, 0x00#8]))) State.reset) = okay 0#8 (.number 8) ∧
    seen (exec (.rspnz (frameOf .bsum 0x00#8 (pingPayload ++ [0xFF#8]))) State.reset) = bad 0#8 (.dec .dShort) ∧
    seen (exec (.dec (hex 3 0x55AA5A)) State.reset) = bad 0#8 (.dec .dLen) := by decide

/-- A 29-byte payload, the shortest that is long enough: type CCT, the name "ň" in two bytes, fourteen nulls. -/
theorem witness_RspziReturnsTypeAndName :
    State.reset.cfg.Conforming ∧ (pingPayload ++ [0x21#8, 0xC5#8, 0x88#8] ++ zeros 14).length = 13 + 16 ∧
    (pingPayload ++ [0x21#8, 0xC5#8, 0x88#8] ++ zeros 14)[12]? = some (zoneCode State.reset.cfg.ztCode .cct) ∧
    strip (((pingPayload ++ [0x21#8, 0xC5#8, 0x88#8] ++ zeros 14).drop 13).take 16) = [[0xC5#8, 0x88#8]].flatten ∧
    Utf8Sequence [0xC5#8, 0x88#8] ∧
    seen (exec (.rspzi (frameOf .bsum 0x00#8 (pingPayload ++ [0x21#8, 0xC5#8, 0x88#8] ++ zeros 14))) State.reset) =
      okay 0#8 (.zoneInfo .cct [0xC5#8, 0x88#8]) :=
  ⟨by decide, by decide, by decide, by decide, by simp [Utf8Sequence, Within], by decide⟩

/-- One byte too few; the code `02`; the name `C5` alone, which the table does not hold. -/
theorem witness_RspziReturnsTypeAndName_errors :
    (pingPayload ++ [0x21#8] ++ zeros 15).length < 13 + 16 ∧ (0x02#8 : Byte) ∉ State.reset.cfg.ztCode.codes ∧
    (pingPayload ++ [0x02#8] ++ zeros 16)[12]? = some 0x02#8 ∧
    strip (((pingPayload ++ [0x21#8, 0xC5#8] ++ zeros 15).drop 13).take 16) = [0xC5#8] ∧ utf8WellFormed [0xC5#8] = false ∧
    seen (exec (.rspzi (frameOf .bsum 0x00#8 (pingPayload ++ [0x21#8] ++ zeros 15))) State.reset) = bad 0#8 (.dec .dShort) ∧
    seen (exec (.rspzi (frameOf .bsum 0x00#8 (pingPayload ++ [0x02#8] ++ zeros 16))) State.reset) = bad 0#8 (.dec .dZtype) ∧
    seen (exec (.rspzi (frameOf .bsum 0x00#8 (pingPayload ++ [0x21#8, 0xC5#8] ++ zeros 15))) State.reset) =
      bad 0#8 (.dec .dUtf8) := by decide

/-- `[C5]` is no concatenation of table sequences, so the last premise of RSPZI's `D_UTF8` clause can be met. -/
theorem witness_RspziReturnsTypeAndName_badText :
    ¬ ∃ parts : List Bytes, [0xC5#8] = parts.flatten ∧ ∀ q ∈ parts, Utf8Sequence q := by
  rintro ⟨parts, h, hq⟩
  have hmem : ∀ q ∈ parts, q = [] ∨ q = [0xC5#8] := by
    intro q hm
    have hs : q.Sublist [0xC5#8] := h ▸ List.sublist_flatten_of_mem hm
    rcases List.sublist_cons_iff.mp hs with h' | ⟨r, rfl, h'⟩
    · exact .inl (List.sublist_nil.mp h')
    · exact .inr (by rw [List.sublist_nil.mp h'])
  cases parts with
  | nil => cases h
  | cons q rest =>
    have hu := hq q List.mem_cons_self
    rcases hmem q List.mem_cons_self with rfl | rfl
    · exact hu
    · exact absurd hu (by simp [Utf8Sequence, Within])

theorem witness_ZoneCodesMapBackToTheirTypes : State.reset.cfg.ztCode.codes.Nodup := by decide

theorem witness_NameTextIsTheCodePoints :
    ∀ q ∈ [[0x7F#8], [0xDF#8, 0xBF#8], [0xEF#8, 0xBF#8, 0xBF#8], [0xF4#8, 0x8F#8, 0xBF#8, 0xBF#8]], Utf8Sequence q := by
  simp [Utf8Sequence, Within]

end Sys2Proof.Tests
end

section
/-! PROOF. The scope of the spec (00): what the argument port reads (00 R10, R11), the two-byte fields (00 R9), and the
parameters and the invariant of the reset state (00 R5). -/

/-! ### Arguments of a request (00 R10, R11) -/

namespace Sys2Proof

/-- The lines are read as the residue of their number modulo `2^ARGW` that is nearest to zero. -/
theorem PortArg.read_int (argW bits : Nat) :
    (PortArg.int bits).read argW = .int ((bits : Int).bmod (2 ^ argW)) := by
  rw [PortArg.read, BitVec.toInt_ofNat']

/-- Whatever stands on the port, the argument read is in the range of 00 R11. -/
theorem PortArg.fits_read (argW : Nat) (a : PortArg) : (a.read argW).fits argW = true := by
  cases a with
  | nonInt => rfl
  | int bits => simp [PortArg.read, Arg.fits, BitVec.le_toInt, BitVec.toInt_lt]

theorem Request.fits_arg (argW : Nat) (r : Request) (k : Nat) : (r.arg argW k).fits argW = true :=
  PortArg.fits_read argW _

/-- The operands of a decoded instruction are the first arguments of the request, as many as its selector has. -/
theorem operands_of_decode {argW : Nat} {r : Request} {i : Instr} (h : decode argW r = .ok i) :
    i.operands = (List.range (Machine.operandCount r.opsel)).map (r.arg argW) := by
  unfold decode at h
  split at h
  case h_17 => cases h
  all_goals
    rename_i hsel
    cases h
    simp [Machine.operandCount, ← BitVec.toNat_inj, hsel, Instr.operands, List.range_succ]

end Sys2Proof

namespace Sys2Proof.Proofs

/-- Settles O2: every operand is an argument of the request (`operands_of_decode`), and every argument fits. -/
theorem decodedInstructionsAreWellFormed : Obligations.DecodedInstructionsAreWellFormed := by
  intro argW r i _ h
  simp [Instr.wellFormed, operands_of_decode h, Request.fits_arg]

/-- Settles O7: below `2^(ARGW-1)` the residue nearest to zero is the number itself, from there on it is the number
less `2^ARGW`. -/
theorem portArgumentsAreSigned : Obligations.PortArgumentsAreSigned := by
  intro argW bits hw
  have hpow : 2 ^ argW = 2 * 2 ^ (argW - 1) := by rw [← pow_succ', Nat.sub_add_cancel (by omega)]
  rw [PortArg.read_int]
  constructor
  · intro hlt
    rw [Int.bmod_eq_of_le (by omega) (by omega)]
  · intro hle hlt
    rw [← Int.sub_bmod_right, Int.bmod_eq_of_le (by omega) (by omega), Nat.cast_pow, Nat.cast_ofNat]

end Sys2Proof.Proofs

/-! ### Two-byte fields (00 R9) -/

namespace Sys2Proof

theorem le16_eq (v : Half) : le16 v = [BitVec.ofNat 8 (v.toNat % 256), BitVec.ofNat 8 (v.toNat / 256)] := by
  simp [le16, ← BitVec.toNat_inj, Nat.shiftRight_eq_div_pow]

@[simp] theorem unle16_toNat (b0 b1 : Byte) : (unle16 b0 b1).toNat = b0.toNat + 256 * b1.toNat := by
  rw [unle16, BitVec.toNat_append, ← Nat.shiftLeft_add_eq_or_of_lt b0.isLt, Nat.shiftLeft_eq]
  omega

@[simp] theorem le16_unle16 (b0 b1 : Byte) : le16 (unle16 b0 b1) = [b0, b1] := by
  have hlow : (b0.toNat + 256 * b1.toNat) % 256 = b0.toNat := by omega
  have hhigh : (b0.toNat + 256 * b1.toNat) / 256 = b1.toNat := by omega
  simp [le16_eq, hlow, hhigh]

theorem le16_injective : Function.Injective le16 := by
  intro v w h
  simp only [le16_eq, List.cons.injEq, ← BitVec.toNat_inj, BitVec.toNat_ofNat] at h
  bv_omega

end Sys2Proof

namespace Sys2Proof.Proofs

/-- Settles O37: `unle16` undoes `le16` because `le16` undoes `unle16` and is injective. -/
theorem littleEndianFieldsRoundTrip : Obligations.LittleEndianFieldsRoundTrip := by
  refine ⟨le16_eq, fun b0 b1 => ⟨unle16_toNat b0 b1, le16_unle16 b0 b1⟩, fun v b0 b1 h => ?_⟩
  exact le16_injective ((le16_unle16 b0 b1).trans h.symm)

end Sys2Proof.Proofs

/-! ### The reset state (00 R5, 70 R241) -/

namespace Sys2Proof

theorem Config.default_conforming : Config.default.Conforming := by decide

namespace Machine

@[simp] theorem State.reset_cfg : State.reset.cfg = Config.default := rfl
@[simp] theorem State.reset_result : State.reset.result = none := rfl

end Machine

end Sys2Proof

namespace Sys2Proof.Proofs
open Sys2Proof.Machine

/-- Settles O14. -/
theorem resetParametersAreTheDefaults : Obligations.ResetParametersAreTheDefaults :=
  ⟨rfl, rfl, rfl, rfl, rfl, rfl, rfl, rfl, rfl, rfl, rfl, Config.default_conforming⟩

/-- Settles O15: the defaults conform, and no result is outstanding. -/
theorem invariantHoldsAtReset : Obligations.InvariantHoldsAtReset :=
  ⟨Config.default_conforming, by simp⟩

end Sys2Proof.Proofs
end

section
/-! PROOF. The state (10): what an operation may read and what it leaves in each field (10 R20, R23, R27), and the steps
that change `SEQ` (10 R22, R23). -/

/-! ### The end of an operation (10 R20, R23) -/

namespace Sys2Proof.Machine

/-- The state an operation ends in with result `r`: `SEQ` advanced where the operation advances it (`adv`) and succeeded,
and nothing else written but the result (10 R23). -/
def State.complete (adv : Bool) (r : Result) (s : State) : State :=
  (if adv = true ∧ r.isOk = true then s.advance else s).finish r

section
variable (adv : Bool) (r : Result) (s : State)

@[simp] theorem State.complete_cfg : (s.complete adv r).cfg = s.cfg := by
  simp only [State.complete, State.finish_cfg]; split <;> rfl

@[simp] theorem State.complete_inputs : (s.complete adv r).inputs = s.inputs := by
  simp only [State.complete, State.finish_inputs]; split <;> rfl

@[simp] theorem State.complete_result : (s.complete adv r).result = some r := rfl

theorem State.complete_seq :
    (s.complete adv r).seq = if adv = true ∧ r.isOk = true then s.seq + 1#8 else s.seq := by
  simp only [State.complete, State.finish_seq]; split <;> rfl

/-- Completing an operation replaces the earlier result. -/
@[simp] theorem State.complete_with_result (earlier : Option Result) :
    State.complete adv r { s with result := earlier } = s.complete adv r := by
  unfold State.complete; split <;> rfl

end

theorem Result.isOk_iff {r : Result} : r.isOk = true ↔ ∃ o, r = .ok o := by
  cases r <;> simp [Result.isOk]

/-- The advance as a count modulo 256 (10 R23). -/
theorem byte_add_one (q : Byte) : q + 1#8 = BitVec.ofNat 8 ((q.toNat + 1) % 256) := by bv_omega

/-! ### What an operation may read (10 R20, R27) -/

/-- From every state the operation completes, with a result that the parameters and `SEQ` alone determine. -/
def Completes (adv : Bool) (op : State → Host.Outcome State Fault Refusal) : Prop :=
  ∃ result : Config → Byte → Result, ∀ s, op s = .next (s.complete adv (result s.cfg s.seq))

/-- The result of a computation, given what stands for its value and for its failure. -/
def Result.ofExcept {ε α : Type} (out : α → Output) (err : ε → Err) : Except ε α → Result
  | .ok a    => .ok (out a)
  | .error e => .err (err e)

/-- A command operation advances in mode `.F` only, and only when its operands are legal (42 R130, R131). -/
theorem command_completes (f : Mode) (payload : Config → Except ArgCause Bytes) :
    Completes (decide (some f = some .frame)) fun s => command f (payload s.cfg) s := by
  cases f with
  | payload =>
    refine ⟨fun c _ => .ofExcept .payload .arg (payload c), fun s => ?_⟩
    beta_reduce
    cases payload s.cfg <;> rfl
  | frame =>
    refine ⟨fun c q => .ofExcept (fun p => .frame (frameBytes c q p)) .arg (payload c), fun s => ?_⟩
    beta_reduce
    cases payload s.cfg <;> rfl

/-- DEC and the response parsers advance nothing (43 R170, 44 R191). -/
theorem answer_completes (r : Config → Except Err Output) : Completes false fun s => answer (r s.cfg) s := by
  refine ⟨fun c _ => .ofExcept id id (r c), fun s => ?_⟩
  beta_reduce
  cases r s.cfg <;> rfl

/-- ENC is a command operation in mode `.F` whose one validation is the length of its payload (43 R166, R167). -/
theorem execEnc_eq_command (input : Bytes) :
    execEnc input = fun s => command .frame (if s.cfg.maxPay < input.length then .error .aLen else .ok input) s := by
  funext s
  by_cases h : s.cfg.maxPay < input.length <;> simp [execEnc, h]

theorem execEnc_completes (input : Bytes) : Completes true (execEnc input) := by
  rw [execEnc_eq_command]
  exact command_completes .frame fun c => if c.maxPay < input.length then .error .aLen else .ok input

/-- Every operation completes, and those of 10 R23 advance `SEQ` when they succeed. -/
theorem exec_completes (i : Instr) : Completes (advances i) (exec i) := by
  cases i with
  | seqrd => exact ⟨fun _ q => .ok (.byte q), fun _ => rfl⟩
  | seqadv => exact ⟨fun _ _ => .ok .nothing, fun _ => rfl⟩
  | enc input => exact execEnc_completes input
  | dec input => exact answer_completes fun c => decodeFrame c input
  | ping f => exact command_completes f fun _ => .ok pingPayload
  | getnz f => exact command_completes f fun _ => .ok pingPayload
  | pwron f zone => exact command_completes f fun _ => powerPayload 0x01#8 zone
  | pwroff f zone => exact command_completes f fun _ => powerPayload 0x00#8 zone
  | mpwron f => exact command_completes f fun c => .ok (masterPayload c 0x01#8)
  | mpwroff f => exact command_completes f fun c => .ok (masterPayload c 0x00#8)
  | brt f zone level => exact command_completes f fun _ => levelPayload 0x07#8 vBrt zone level
  | temp f zone value => exact command_completes f fun _ => levelPayload 0x0D#8 vTemp zone value
  | rgbw f zone r g b w => exact command_completes f fun c => rgbwPayload c zone r g b w
  | getzi f zone => exact command_completes f fun c => zoneInfoPayload c zone
  | rspnz input => exact answer_completes fun c => parseResponse c zoneCount input
  | rspzi input => exact answer_completes fun c => parseResponse c zoneInfo input

/-- The state an operation leaves differs from the one before it in the result, and in `SEQ` where it advances. -/
theorem eq_complete_of_exec {i : Instr} {s t : State} (h : exec i s = .next t) :
    ∃ r, t = s.complete (advances i) r := by
  obtain ⟨result, hexec⟩ := exec_completes i
  rw [hexec] at h
  exact ⟨_, (Host.Outcome.next.inj h).symm⟩

end Sys2Proof.Machine

namespace Sys2Proof.Proofs
open Sys2Proof.Machine

/-- Settles O20: an operation ends in `State.complete`, and a step is idle, a reset, or an operation. -/
theorem onlyTheListedOperationsAdvance : Obligations.OnlyTheListedOperationsAdvance := by
  constructor
  · intro i s t r h hr
    obtain ⟨r', rfl⟩ := eq_complete_of_exec h
    obtain rfl : r' = r := by simpa using hr
    rw [State.complete_seq, byte_add_one]
  · intro s t h
    obtain ⟨-, rfl⟩ | ⟨rest, hin, rfl⟩ | ⟨r, rest, i, hin, hdec, hexec⟩ := step_cases h
    · exact .inl rfl
    · exact .inr (.inl ⟨⟨rest, hin⟩, rfl⟩)
    · obtain ⟨res, rfl⟩ := eq_complete_of_exec hexec
      by_cases hadv : advances i = true ∧ res.isOk = true
      · obtain ⟨o, rfl⟩ := Result.isOk_iff.mp hadv.2
        refine .inr (.inr ⟨r, rest, i, hin, hdec, hadv.1, ⟨o, rfl⟩, ?_⟩)
        rw [State.complete_seq, if_pos hadv, byte_add_one]
      · left
        rw [State.complete_seq, if_neg hadv]

/-- Settles O17: no case of `step_cases` writes the parameters, and each takes the head of the inputs if there is one. -/
theorem stepNeverChangesTheParameters : Obligations.StepNeverChangesTheParameters := by
  intro s t h
  obtain ⟨hin, rfl⟩ | ⟨rest, hin, rfl⟩ | ⟨r, rest, i, hin, -, hexec⟩ := step_cases h
  · simp [hin]
  · simp [hin]
  · obtain ⟨res, rfl⟩ := eq_complete_of_exec hexec
    simp [hin]

/-- Settles O19: the fields of `State.complete`. -/
theorem operationsLeaveTheRestUnchanged : Obligations.OperationsLeaveTheRestUnchanged := by
  intro i s t h
  obtain ⟨r, rfl⟩ := eq_complete_of_exec h
  refine ⟨by simp, by simp, fun hadv => ?_⟩
  simp [State.complete_seq, hadv]

/-- Settles O24: the result is a function of the parameters and `SEQ`, and it replaces the earlier one. -/
theorem earlierResultsAreNeverRead : Obligations.EarlierResultsAreNeverRead := by
  intro i s r
  obtain ⟨result, hexec⟩ := exec_completes i
  rw [hexec, hexec, State.complete_with_result]

/-- Settles O13. -/
theorem counterIsZeroAfterReset : Obligations.CounterIsZeroAfterReset := by
  refine ⟨rfl, fun s t rest hin h => ?_⟩
  rw [step_reset hin] at h
  obtain rfl := Host.Outcome.next.inj h
  rfl

end Sys2Proof.Proofs
end

section
/-! PROOF. Byte sequences and the order of operations (20): what every operation hands over is legal (20 R47), the frames
of a run carry consecutive markers (20 R50), and operations that do not write `SEQ` are idempotent (20 R47). -/

/-! ### A step runs one operation (20 R50) -/

namespace Sys2Proof.Proofs
open Sys2Proof.Machine

/-- Settles O10. -/
theorem stepRunsTheDecodedInstruction : Obligations.StepRunsTheDecodedInstruction := by
  intro s r rest i hin hdec
  rw [step_request hin, hdec]

end Sys2Proof.Proofs

/-! ### Idempotence (20 R47) -/

namespace Sys2Proof.Machine

/-- An operation that does not advance `SEQ` writes the result only. -/
theorem State.complete_false (r : Result) (s : State) : s.complete false r = { s with result := some r } := rfl

end Sys2Proof.Machine

namespace Sys2Proof.Proofs
open Sys2Proof.Machine

/-- Settles O25: the state left behind agrees with the one before it in all that determines the result. -/
theorem readingOperationsAreIdempotent : Obligations.ReadingOperationsAreIdempotent := by
  intro i s t hadv h
  obtain ⟨result, hexec⟩ := exec_completes i
  rw [hexec, hadv, State.complete_false] at h
  obtain rfl := Host.Outcome.next.inj h
  rw [hexec, State.complete_with_result, hadv, State.complete_false]

end Sys2Proof.Proofs

/-! ### The payloads of the commands fit `MAXPAY` (00 R5, 30 R65 to R70) -/

namespace Sys2Proof.Machine

/-- A payload marshalled from one validated operand has the length of its format. -/
theorem length_of_map {α : Type} {x : Except ArgCause α} {format : α → Bytes} {n : Nat} {p : Bytes}
    (h : x.map format = .ok p) (hlen : ∀ a, (format a).length = n) : p.length = n := by
  cases x with
  | error e => cases h
  | ok a => cases h; exact hlen a

/-- A further operand, validated before the others, does not change the length. -/
theorem length_of_bind {α : Type} {x : Except ArgCause α} {rest : α → Except ArgCause Bytes} {n : Nat}
    {p : Bytes} (h : x.bind rest = .ok p) (hlen : ∀ a, rest a = .ok p → p.length = n) : p.length = n := by
  cases x with
  | error e => cases h
  | ok a => exact hlen a h

section
variable {c : Config} {p : Bytes}

theorem powerPayload_length {onOff : Byte} {zone : Arg} (h : powerPayload onOff zone = .ok p) : p.length = 5 := by
  rw [powerPayload_eq] at h
  exact length_of_map h fun _ => rfl

theorem levelPayload_length {opcode : Byte} {v : Arg → Except ArgCause Int} {zone value : Arg}
    (h : levelPayload opcode v zone value = .ok p) : p.length = 6 := by
  rw [levelPayload_eq] at h
  exact length_of_bind h fun _ h => length_of_map h fun _ => rfl

theorem rgbwPayload_length {zone r g b w : Arg} (h : rgbwPayload c zone r g b w = .ok p) :
    p.length = 8 + c.rgbwPad := by
  rw [rgbwPayload_eq] at h
  exact length_of_bind h fun _ h => length_of_map h fun _ => by simp; omega

theorem zoneInfoPayload_length {zone : Arg} (h : zoneInfoPayload c zone = .ok p) : p.length = 3 + c.gziPad := by
  rw [zoneInfoPayload_eq] at h
  exact length_of_map h fun _ => by simp; omega

end

/-- Where the parameters conform, a legal payload has at most `MAXPAY` bytes. -/
def PayloadFits (payload : Config → Except ArgCause Bytes) : Prop :=
  ∀ c p, c.Conforming → payload c = .ok p → p.length ≤ c.maxPay

/-- A payload is short enough when it is no longer than PING's, RGBW's or GETZI's, the three of 00 R5's bound. -/
theorem payloadFits_of_length {payload : Config → Except ArgCause Bytes}
    (h : ∀ c p, payload c = .ok p → p.length ≤ max 12 (max (8 + c.rgbwPad) (3 + c.gziPad))) : PayloadFits payload :=
  fun c p hc hp => (h c p hp).trans hc.1

theorem pingPayload_fits : PayloadFits fun _ => .ok pingPayload :=
  payloadFits_of_length fun _ _ h => by cases h; simp

theorem powerPayload_fits (onOff : Byte) (zone : Arg) : PayloadFits fun _ => powerPayload onOff zone :=
  payloadFits_of_length fun _ _ h => by have := powerPayload_length h; omega

theorem masterPayload_fits (onOff : Byte) : PayloadFits fun c => .ok (masterPayload c onOff) :=
  payloadFits_of_length fun _ _ h => by cases h; simp

theorem levelPayload_fits (opcode : Byte) (v : Arg → Except ArgCause Int) (zone value : Arg) :
    PayloadFits fun _ => levelPayload opcode v zone value :=
  payloadFits_of_length fun _ _ h => by have := levelPayload_length h; omega

theorem rgbwPayload_fits (zone r g b w : Arg) : PayloadFits fun c => rgbwPayload c zone r g b w :=
  payloadFits_of_length fun _ _ h => by have := rgbwPayload_length h; omega

theorem zoneInfoPayload_fits (zone : Arg) : PayloadFits fun c => zoneInfoPayload c zone :=
  payloadFits_of_length fun _ _ h => by have := zoneInfoPayload_length h; omega

/-- ENC's payload as that of a command whose one validation is its length (43 R167). -/
def encPayload (input : Bytes) (c : Config) : Except ArgCause Bytes :=
  if c.maxPay < input.length then .error .aLen else .ok input

theorem exec_enc (input : Bytes) (s : State) : exec (.enc input) s = command .frame (encPayload input s.cfg) s :=
  congrFun (execEnc_eq_command input) s

theorem encPayload_fits (input : Bytes) : PayloadFits (encPayload input) := by
  intro c p _ h
  unfold encPayload at h
  split at h
  · cases h
  · cases h; omega

/-! ### The outputs of DEC and the response parsers (43 R170, 44 R192, R195) -/

/-- A legal output that is no frame. -/
def Output.Received (c : Config) (o : Output) : Prop := o.Legal c ∧ ∀ f, o ≠ .frame f

theorem decodeFrame_received {c : Config} {raw : Bytes} {o : Output} (h : decodeFrame c raw = .ok o) : o.Received c := by
  cases hu : unframe c raw with
  | error e => simp [decodeFrame, hu] at h
  | ok q =>
    obtain rfl : Output.decoded q.1 q.2 = o := by simpa [decodeFrame, hu] using h
    exact ⟨((unframe_ok_iff c raw q.1 q.2).mp hu).1, by simp⟩

theorem zoneCount_received {c : Config} {p : Bytes} {o : Output} (h : zoneCount c p = .ok o) : o.Received c := by
  unfold zoneCount at h
  split at h
  · cases h
  · cases h
    exact ⟨popcount16_le _, by simp⟩

theorem nameField_length_le (c : Config) (p : Bytes) : (nameField c p).length ≤ c.nameLen := List.length_take_le _ _

theorem zoneInfo_received {c : Config} {p : Bytes} {o : Output} (h : zoneInfo c p = .ok o) : o.Received c := by
  unfold zoneInfo at h
  split at h
  · cases h
  split at h
  · cases h
  simp only at h
  split at h
  next hutf8 =>
    cases h
    exact ⟨⟨(strip_length_le _).trans (nameField_length_le c p), hutf8, strip_getLast _⟩, by simp⟩
  · cases h

theorem parseResponse_received {c : Config} {extract : Config → Bytes → Except DecCause Output} {raw : Bytes} {o : Output}
    (hex : ∀ p o, extract c p = .ok o → o.Received c) (h : parseResponse c extract raw = .ok o) : o.Received c := by
  cases hu : unframe c raw with
  | error e => rw [parseResponse_of_error hu] at h; cases h
  | ok q =>
    rw [parseResponse_of_unframe hu] at h
    cases hq : extract c q.2 with
    | error e => rw [hq] at h; cases h
    | ok o' => rw [hq] at h; cases h; exact hex _ _ hq

/-! ### The four shapes of an operation -/

/-- An operation is SEQRD, SEQADV, a command (ENC is one, with its length for a validation), or an answer to received
bytes. -/
inductive Shape (i : Instr) : Prop
  | seqrd (hi : i = .seqrd)
  | seqadv (hi : i = .seqadv)
  | command (f : Mode) (payload : Config → Except ArgCause Bytes) (hexec : ∀ s, exec i s = command f (payload s.cfg) s)
      (hfits : PayloadFits payload)
  | answer (r : Config → Except Err Output) (hexec : ∀ s, exec i s = answer (r s.cfg) s)
      (hrecv : ∀ c o, r c = .ok o → o.Received c)

/-- The one walk through the sixteen operations: which shape each has. -/
theorem exec_shape (i : Instr) : Shape i := by
  cases i with
  | seqrd => exact .seqrd rfl
  | seqadv => exact .seqadv rfl
  | enc input => exact .command .frame _ (exec_enc input) (encPayload_fits input)
  | dec input => exact .answer _ (fun _ => rfl) fun _ _ => decodeFrame_received
  | ping f => exact .command f _ (fun _ => rfl) pingPayload_fits
  | getnz f => exact .command f _ (fun _ => rfl) pingPayload_fits
  | pwron f zone => exact .command f _ (fun _ => rfl) (powerPayload_fits 0x01#8 zone)
  | pwroff f zone => exact .command f _ (fun _ => rfl) (powerPayload_fits 0x00#8 zone)
  | mpwron f => exact .command f _ (fun _ => rfl) (masterPayload_fits 0x01#8)
  | mpwroff f => exact .command f _ (fun _ => rfl) (masterPayload_fits 0x00#8)
  | brt f zone level => exact .command f _ (fun _ => rfl) (levelPayload_fits 0x07#8 vBrt zone level)
  | temp f zone value => exact .command f _ (fun _ => rfl) (levelPayload_fits 0x0D#8 vTemp zone value)
  | rgbw f zone r g b w => exact .command f _ (fun _ => rfl) (rgbwPayload_fits zone r g b w)
  | getzi f zone => exact .command f _ (fun _ => rfl) (zoneInfoPayload_fits zone)
  | rspnz input =>
    exact .answer _ (fun _ => rfl) fun _ _ => parseResponse_received fun _ _ => zoneCount_received
  | rspzi input =>
    exact .answer _ (fun _ => rfl) fun _ _ => parseResponse_received fun _ _ => zoneInfo_received

/-! ### Only legal results are observable (20 R47) -/

/-- A frame around a payload of at most `MAXPAY` bytes passes `UNFRAME`. -/
theorem frameBytes_legal {c : Config} {mk : Byte} {p : Bytes} (hp : p.length ≤ c.maxPay) :
    (Output.frame (frameBytes c mk p)).Legal c :=
  ⟨mk, p, (unframe_ok_iff c _ mk p).mpr ⟨hp, rfl⟩⟩

theorem command_legal {f : Mode} {payload : Config → Except ArgCause Bytes} {s t : State} (hc : s.cfg.Conforming)
    (hfits : PayloadFits payload) (h : command f (payload s.cfg) s = .next t) :
    ∃ r, t.result = some r ∧ r.Legal s.cfg := by
  obtain ⟨e, -, rfl⟩ | ⟨p, hp, -, rfl⟩ | ⟨p, hp, -, rfl⟩ := command_cases h
  · exact ⟨_, rfl, trivial⟩
  · exact ⟨_, rfl, hfits _ p hc hp⟩
  · exact ⟨_, rfl, frameBytes_legal (hfits _ p hc hp)⟩

theorem answer_legal {x : Except Err Output} {s t : State} (hrecv : ∀ o, x = .ok o → o.Received s.cfg)
    (h : answer x s = .next t) : ∃ r, t.result = some r ∧ r.Legal s.cfg := by
  obtain ⟨o, ho, rfl⟩ | ⟨e, -, rfl⟩ := answer_cases h
  · exact ⟨_, rfl, (hrecv o ho).1⟩
  · exact ⟨_, rfl, trivial⟩

/-- Under conforming parameters every operation ends in a legal result. -/
theorem exec_legal {i : Instr} {s t : State} (hc : s.cfg.Conforming) (h : exec i s = .next t) :
    ∃ r, t.result = some r ∧ r.Legal s.cfg := by
  cases exec_shape i with
  | seqrd hi => subst hi; cases h; exact ⟨_, rfl, trivial⟩
  | seqadv hi => subst hi; cases h; exact ⟨_, rfl, trivial⟩
  | command f payload hexec hfits => exact command_legal hc hfits (hexec s ▸ h)
  | answer x hexec hrecv => exact answer_legal (hrecv s.cfg) (hexec s ▸ h)

end Sys2Proof.Machine

namespace Sys2Proof.Proofs
open Sys2Proof.Machine

/-- Settles O16: an idle step keeps the state, a reset leaves no result, and an operation keeps the parameters and ends in
a legal result (`exec_legal`). -/
theorem everyStepKeepsTheInvariant : Obligations.EveryStepKeepsTheInvariant := by
  intro s t hinv h
  obtain ⟨-, rfl⟩ | ⟨rest, -, rfl⟩ | ⟨-, rest, i, -, -, hexec⟩ := step_cases h
  · exact hinv
  · exact ⟨hinv.1, by simp⟩
  · have hcfg : t.cfg = s.cfg := (stepNeverChangesTheParameters s t h).1
    obtain ⟨r, hr, hlegal⟩ := exec_legal (s := { s with inputs := rest }) hinv.1 hexec
    exact ⟨hcfg ▸ hinv.1, by simpa [hr, hcfg] using hlegal⟩

end Sys2Proof.Proofs

/-! ### Consecutive markers (20 R50, 43 R166) -/

namespace Sys2Proof.Machine

/-- An operation other than SEQADV shows no frame and leaves `SEQ`, or shows a frame whose marker is `SEQ` and advances
it. -/
theorem exec_frame_cases {i : Instr} {s t : State} (hi : i ≠ .seqadv) (h : exec i s = .next t) :
    ∃ r, t.result = some r ∧
      ((r.frame? = none ∧ t.seq = s.seq) ∨
        ∃ p, r.frame? = some (frameBytes s.cfg s.seq p) ∧ t.seq = s.seq + 1#8) := by
  cases exec_shape i with
  | seqrd hi => subst hi; cases h; exact ⟨_, rfl, .inl ⟨rfl, rfl⟩⟩
  | seqadv hi' => exact absurd hi' hi
  | command f payload hexec _ =>
    obtain ⟨e, -, rfl⟩ | ⟨p, -, -, rfl⟩ | ⟨p, -, -, rfl⟩ := command_cases (hexec s ▸ h)
    · exact ⟨_, rfl, .inl ⟨rfl, rfl⟩⟩
    · exact ⟨_, rfl, .inl ⟨rfl, rfl⟩⟩
    · exact ⟨_, rfl, .inr ⟨p, rfl, rfl⟩⟩
  | answer x hexec hrecv =>
    obtain ⟨o, ho, rfl⟩ | ⟨e, -, rfl⟩ := answer_cases (hexec s ▸ h)
    · refine ⟨_, rfl, .inl ⟨?_, rfl⟩⟩
      cases o with
      | frame f => exact absurd rfl ((hrecv _ _ ho).2 f)
      | _ => rfl
    · exact ⟨_, rfl, .inl ⟨rfl, rfl⟩⟩

@[simp] theorem frameBytes_marker (c : Config) (mk : Byte) (p : Bytes) : (frameBytes c mk p)[5]? = some mk := rfl

/-- The value of `SEQ` after `k` advances from `q`. -/
def advanced (q : Byte) (k : Nat) : Byte := BitVec.ofNat 8 ((q.toNat + k) % 256)

@[simp] theorem advanced_zero (q : Byte) : advanced q 0 = q := by
  unfold advanced; bv_omega

@[simp] theorem advanced_succ (q : Byte) (k : Nat) : advanced q (k + 1) = advanced (q + 1#8) k := by
  unfold advanced; bv_omega

/-- The frames carry the markers `q`, `q + 1`, ... in order, and `q'` is the marker after the last. -/
def ConsecutiveMarkers (q : Byte) (frames : List Bytes) (q' : Byte) : Prop :=
  frames.map (fun f => f[5]?) = (List.range frames.length).map (fun k => some (advanced q k)) ∧
    q' = advanced q frames.length

theorem ConsecutiveMarkers.nil (q : Byte) : ConsecutiveMarkers q [] q := by
  simp [ConsecutiveMarkers]

theorem ConsecutiveMarkers.cons {q q' : Byte} {f : Bytes} {frames : List Bytes} (hf : f[5]? = some q)
    (h : ConsecutiveMarkers (q + 1#8) frames q') : ConsecutiveMarkers q (f :: frames) q' := by
  obtain ⟨hmarkers, rfl⟩ := h
  constructor
  · simp [hf, hmarkers, List.range_succ_eq_map]
  · simp

theorem runAll_cons {i : Instr} {is : List Instr} {s t : State} {r : Result} (h : exec i s = .next t)
    (hr : t.result = some r) : runAll (i :: is) s = (r :: (runAll is t).1, (runAll is t).2) := by
  simp [runAll, h, hr]

theorem runAll_consecutiveMarkers (is : List Instr) (s : State) (h : Instr.seqadv ∉ is) :
    ConsecutiveMarkers s.seq ((runAll is s).1.filterMap Result.frame?) (runAll is s).2.seq := by
  induction is generalizing s with
  | nil => exact .nil s.seq
  | cons i is ih =>
    obtain ⟨hi, his⟩ : Instr.seqadv ≠ i ∧ Instr.seqadv ∉ is := by simpa using h
    obtain ⟨result, hcompletes⟩ := exec_completes i
    have hexec := hcompletes s
    generalize s.complete (advances i) (result s.cfg s.seq) = t at hexec
    obtain ⟨r, hr, ⟨hframe, hseq⟩ | ⟨p, hframe, hseq⟩⟩ := exec_frame_cases hi.symm hexec
    · rw [runAll_cons hexec hr, List.filterMap_cons_none hframe, ← hseq]
      exact ih t his
    · rw [runAll_cons hexec hr, List.filterMap_cons_some hframe]
      exact .cons (frameBytes_marker _ _ _) (hseq ▸ ih t his)

end Sys2Proof.Machine

namespace Sys2Proof.Proofs
open Sys2Proof.Machine

/-- Settles O21. -/
theorem framesCarryConsecutiveMarkers : Obligations.FramesCarryConsecutiveMarkers :=
  fun is s h => runAll_consecutiveMarkers is s h

end Sys2Proof.Proofs
end

section
/-! PROOF. The request format and the payload formats (30): `decode` and `encode` agree (30 R80, R81), what a request
leaves out or adds (30 R81, R87), the zone bitmask (30 R71), the frame's layout (30 R60, R61), and the table's payload
rows (30 R83, R84). -/

/-! ### Writing a request and reading it back (30 R80, R81) -/

namespace Sys2Proof

@[simp] theorem Mode.ofBit_bit (f : Mode) : Mode.ofBit f.bit = f := by
  cases f <;> rfl

/-- An argument in the range of 00 R11 comes through the port unchanged. -/
theorem Arg.read_toPort {argW : Nat} {a : Arg} (hw : 0 < argW) (ha : a.fits argW = true) :
    (a.toPort argW).read argW = a := by
  cases a with
  | nonInt => rfl
  | int v =>
    simp only [Arg.fits, Bool.and_eq_true, decide_eq_true_eq] at ha
    obtain ⟨hlo, hhi⟩ := ha
    rw [Arg.toPort, PortArg.read, BitVec.ofNat_toNat, BitVec.setWidth_eq, BitVec.toInt_ofInt_eq_self hw hlo hhi]

/-- The port carries every numeric operand of the instruction. -/
def Instr.Carried (argW : Nat) (i : Instr) : Prop := ∀ a ∈ i.operands, (a.toPort argW).read argW = a

theorem Instr.carried_of_wellFormed {argW : Nat} {i : Instr} (hw : 0 < argW) (hi : i.wellFormed argW = true) :
    i.Carried argW :=
  fun a ha => Arg.read_toPort hw (List.all_eq_true.mp hi a ha)

theorem decode_encode_of_carried {argW : Nat} {i : Instr} (hi : i.Carried argW) :
    decode argW (encode argW i) = .ok i := by
  cases i with
  | seqrd | seqadv | enc input | dec input | rspnz input | rspzi input => rfl
  | ping f | getnz f | mpwron f | mpwroff f => simp [encode, decode, Request.command]
  | pwron f z | pwroff f z | getzi f z | brt f z l | temp f z v | rgbw f z r g b w =>
    simp only [Instr.Carried, Instr.operands, List.forall_mem_cons] at hi
    simp [encode, decode, Request.command, Request.arg, hi]

end Sys2Proof

namespace Sys2Proof.Proofs

/-- Settles O1: the port carries the operands of a well-formed instruction, and every other field is copied. -/
theorem decodeOfEncode : Obligations.DecodeOfEncode :=
  fun _ _ hw hi => decode_encode_of_carried (Instr.carried_of_wellFormed (by omega) hi)

/-- Settles O3. -/
theorem requestsOfEveryFamilyDecode : Obligations.RequestsOfEveryFamilyDecode := by
  unfold Obligations.RequestsOfEveryFamilyDecode
  decide

end Sys2Proof.Proofs

/-! ### What `decode` reads of a request (30 R81, R87) -/

namespace Sys2Proof
open Sys2Proof.Machine

/-- `decode` fails exactly on the selectors outside the table, and names the selector. -/
theorem decode_eq_error_iff {argW : Nat} {r : Request} {e : DecodeError} :
    decode argW r = .error e ↔ r.opsel ∉ assignedSelectors ∧ e = .unassignedOpsel r.opsel := by
  unfold decode
  split
  case h_17 =>
    have hnot : r.opsel ∉ assignedSelectors := by
      simp only [assignedSelectors, List.mem_cons, List.not_mem_nil, or_false, not_or, ← BitVec.toNat_inj]
      and_intros <;> assumption
    simp [hnot, eq_comm]
  all_goals
    rename_i hsel
    simp [assignedSelectors, ← BitVec.toNat_inj, hsel]

theorem operandCount_of_unassigned {opsel : Byte} (h : opsel ∉ assignedSelectors) : operandCount opsel = 0 := by
  simp only [assignedSelectors, List.mem_cons, not_or] at h
  simp [operandCount, h]

theorem exists_decode_of_operandCount_pos {r : Request} (argW : Nat) (h : 1 ≤ operandCount r.opsel) :
    ∃ i, decode argW r = .ok i := by
  cases hd : decode argW r with
  | ok i => exact ⟨i, rfl⟩
  | error e =>
    have := operandCount_of_unassigned (decode_eq_error_iff.mp hd).1
    omega

/-- Two requests that agree in what the selected operation uses decode to the same. -/
theorem decode_congr {argW : Nat} {r r' : Request} (hop : r.opsel = r'.opsel)
    (hf : r.opsel ∈ modeSelectors → r.f = r'.f)
    (harg : ∀ k < operandCount r.opsel, r.arg argW k = r'.arg argW k)
    (hin : r.opsel ∈ bytesSelectors → r.input = r'.input) : decode argW r = decode argW r' := by
  unfold decode
  rw [← hop]
  split
  case h_1 | h_2 | h_17 => rfl
  case h_3 hsel | h_4 hsel | h_15 hsel | h_16 hsel =>
    rw [hin (by simp [bytesSelectors, ← BitVec.toNat_inj, hsel])]
  case h_5 hsel | h_6 hsel | h_9 hsel | h_10 hsel =>
    rw [hf (by simp [modeSelectors, ← BitVec.toNat_inj, hsel])]
  all_goals
    rename_i hsel
    rw [hf (by simp [modeSelectors, ← BitVec.toNat_inj, hsel])]
    simp [harg, operandCount, ← BitVec.toNat_inj, hsel]

end Sys2Proof

namespace Sys2Proof.Proofs
open Sys2Proof.Machine

/-- Settles O4. -/
theorem unassignedSelectorIsRefused : Obligations.UnassignedSelectorIsRefused := by
  intro s r rest hin hop
  rw [step_request hin, decode_eq_error_iff.mpr ⟨hop, rfl⟩]
  rfl

/-- Settles O5: the fields `decode_congr` names are all that an operation uses. -/
theorem unusedRequestFieldsAreIgnored : Obligations.UnusedRequestFieldsAreIgnored :=
  fun argW r r' hop hf hargs hin =>
    decode_congr hop hf (fun k hk => by rw [Request.arg, Request.arg, hargs k hk]) hin

end Sys2Proof.Proofs

/-! ### Operands left out (30 R81) -/

namespace Sys2Proof
open Sys2Proof.Machine

/-- Writing `NonInt` out after the arguments changes no operand. -/
theorem Request.arg_append_nonInt (argW : Nat) (r : Request) (n k : Nat) :
    Request.arg argW { r with args := r.args ++ List.replicate n .nonInt } k = r.arg argW k := by
  by_cases hk : k < r.args.length
  · rw [Request.arg, Request.arg, List.getElem?_append_left hk]
  · rw [Request.arg_of_length_le (r := r) (by omega), Request.arg, List.getElem?_append_right (by omega),
      List.getElem?_replicate]
    split <;> rfl

/-- The first `n` operands of a request with fewer arguments are its arguments and then `NonInt`. -/
theorem Request.map_arg_range {argW n : Nat} {r : Request} (h : r.args.length ≤ n) :
    (List.range n).map (r.arg argW) =
      r.args.map (PortArg.read argW) ++ List.replicate (n - r.args.length) .nonInt := by
  apply List.ext_getElem (by simp; omega)
  intro k hk _
  by_cases hlt : k < r.args.length
  · simp [Request.arg, hlt]
  · simp [Request.arg_of_length_le (r := r) (not_lt.mp hlt), List.getElem_append, hlt]

/-- A number below `2^9`, the bound of 00 R11 at the least width of 00 R5, is read as it stands at every width. -/
theorem PortArg.read_int_of_lt {argW n : Nat} (hw : 10 ≤ argW) (hn : n < 2 ^ 9) :
    (PortArg.int n).read argW = .int n :=
  (Proofs.portArgumentsAreSigned argW n hw).1 (hn.trans_le (Nat.pow_le_pow_right (by omega) (by omega)))

end Sys2Proof

namespace Sys2Proof.Machine

theorem vZone_of_legal {z : Nat} (h1 : 1 ≤ z) (h16 : z ≤ 16) : vZone (.int z) = .ok (z : Int) :=
  (vZone_ok_iff _ _).mpr ⟨rfl, by omega, by omega⟩

theorem vComp_byte (c : Byte) : vComp (.int c.toNat) = .ok (c.toNat : Int) :=
  (validate_ok_iff 0 255 _ _).mpr ⟨rfl, by omega, by omega⟩

/-- The zone is validated first, so a `NonInt` zone is the failure reported whatever follows (40 R109, 60 R217 (a)). -/
theorem exec_of_zone_nonInt {i : Instr} {rest : List Arg} (s : State) (h : i.operands = .nonInt :: rest) :
    exec i s = .next (failed (.arg .aType) s) := by
  cases i with
  | seqrd | seqadv | enc | dec | ping | getnz | mpwron | mpwroff | rspnz | rspzi => cases h
  | pwron | pwroff | brt | temp | rgbw | getzi => cases h; rfl

@[simp] theorem vBrt_nonInt : vBrt .nonInt = .error .aType := rfl
@[simp] theorem vTemp_nonInt : vTemp .nonInt = .error .aType := rfl
@[simp] theorem vComp_nonInt : vComp .nonInt = .error .aType := rfl

theorem levelPayload_error {opcode : Byte} {v : Arg → Except ArgCause Int} {zone value : Arg} {z : Int} {c : ArgCause}
    (hz : vZone zone = .ok z) (hv : v value = .error c) : levelPayload opcode v zone value = .error c := by
  rw [levelPayload_eq, hz, Except.bind, hv, Except.map]

theorem rgbwPayload_error {cfg : Config} {zone r g b w : Arg} {z : Int} {c : ArgCause}
    (hz : vZone zone = .ok z) (hv : vRgbw r g b w = .error c) : rgbwPayload cfg zone r g b w = .error c := by
  rw [rgbwPayload_eq, hz, Except.bind, hv, Except.map]

/-- The components are validated in order, so a `NonInt` after legal ones is the failure reported (40 R106, 60 R217 (a)). -/
theorem vRgbw_of_nonInt {r g b w : Arg} {components : Bytes} {rest : List Arg}
    (h : [r, g, b, w] = components.map (fun c => .int c.toNat) ++ .nonInt :: rest) :
    vRgbw r g b w = .error .aType := by
  match components with
  | [] | [_] | [_, _] | [_, _, _] =>
    simp only [List.map, List.nil_append, List.cons_append, List.cons.injEq] at h
    simp [h, vRgbw, vComp_byte, bind, Except.bind]
  | _ :: _ :: _ :: _ :: _ => simp at h

/-- A `NonInt` operand after a legal zone and legal components fails with `A_TYPE`. -/
theorem exec_of_value_nonInt {i : Instr} {z : Nat} {components : Bytes} {rest : List Arg} (s : State) (h1 : 1 ≤ z)
    (h16 : z ≤ 16) (h : i.operands = .int z :: (components.map (fun c => .int c.toNat) ++ .nonInt :: rest)) :
    exec i s = .next (failed (.arg .aType) s) := by
  have hz := vZone_of_legal h1 h16
  cases i with
  | seqrd | seqadv | enc | dec | ping | getnz | mpwron | mpwroff | rspnz | rspzi => cases h
  | pwron | pwroff | getzi => simp [Instr.operands] at h
  | brt f zone value | temp f zone value =>
    cases components with
    | cons => simp [Instr.operands] at h
    | nil =>
      obtain ⟨rfl, rfl, -⟩ : zone = .int z ∧ value = .nonInt ∧ rest = [] := by
        simpa [Instr.operands, eq_comm] using h
      simp [exec, execBrt, execTemp, levelPayload_error hz, failed]
  | rgbw f zone r g b w =>
    obtain ⟨rfl, hcomp⟩ := List.cons.inj h
    simp [exec, execRgbw, rgbwPayload_error hz (vRgbw_of_nonInt hcomp), failed]

/-- A step on a request that leaves an operand out, where the operands before it are legal. -/
theorem step_of_missing_operand {s : State} {r : Request} {rest : List HostInput} {z : Nat} {components : Bytes}
    (hin : s.inputs = .request r :: rest) (hw : 10 ≤ s.cfg.argW) (h1 : 1 ≤ z) (h16 : z ≤ 16)
    (hargs : r.args = .int z :: components.map (fun c => .int c.toNat))
    (hcount : components.length + 2 ≤ operandCount r.opsel) :
    step s = .next { s with inputs := rest, result := some (.err (.arg .aType)) } := by
  obtain ⟨i, hdec⟩ := exists_decode_of_operandCount_pos s.cfg.argW (by omega : 1 ≤ operandCount r.opsel)
  obtain ⟨n, hn⟩ := Nat.exists_eq_add_of_le hcount
  have hread : ∀ c : Byte, (PortArg.int c.toNat).read s.cfg.argW = .int c.toNat :=
    fun c => PortArg.read_int_of_lt hw (by omega)
  have hops : i.operands =
      .int z :: (components.map (fun c => .int c.toNat) ++ .nonInt :: List.replicate n .nonInt) := by
    rw [operands_of_decode hdec, Request.map_arg_range (by simp [hargs]; omega), hargs, hn]
    have hlen : components.length + 2 + n - (components.length + 1) = n + 1 := by omega
    simp [hlen, List.replicate_succ, PortArg.read_int_of_lt hw (by omega : z < 2 ^ 9), hread]
  rw [Proofs.stepRunsTheDecodedInstruction s r rest i hin hdec, exec_of_value_nonInt _ h1 h16 hops]
  rfl

end Sys2Proof.Machine

namespace Sys2Proof.Proofs
open Sys2Proof.Machine

/-- Settles O6: the operands of an incomplete request are its arguments and then `NonInt` (`Request.map_arg_range`), and
the first `NonInt` after legal operands is the failure reported. -/
theorem absentOperandFailsItsValidation : Obligations.AbsentOperandFailsItsValidation := by
  refine ⟨fun argW r n => ?_, fun s r rest hin hcount hargs => ?_, fun s r rest z hin hw hcount h1 h16 hargs => ?_,
    fun s r rest z components hin hw hop h1 h16 hlen hargs => ?_⟩
  · exact decode_congr rfl (fun _ => rfl) (fun k _ => Request.arg_append_nonInt argW r n k) (fun _ => rfl)
  · obtain ⟨i, hdec⟩ := exists_decode_of_operandCount_pos s.cfg.argW hcount
    obtain ⟨n, hn⟩ := Nat.exists_eq_add_of_le' hcount
    have hops : i.operands = .nonInt :: List.replicate n .nonInt := by
      rw [operands_of_decode hdec, Request.map_arg_range (by simp [hargs]), hargs, hn]
      rfl
    rw [stepRunsTheDecodedInstruction s r rest i hin hdec, exec_of_zone_nonInt _ hops]
    rfl
  · exact step_of_missing_operand (components := []) hin hw h1 h16 hargs hcount
  · have hcount : operandCount r.opsel = 5 := by rw [hop]; rfl
    exact step_of_missing_operand hin hw h1 h16 hargs (by omega)

end Sys2Proof.Proofs

/-! ### The zone bitmask (30 R71) -/

namespace Sys2Proof.Machine

/-- The field of a zone is `le16` of the power of two of its bit. -/
theorem zoneField_eq (z : Int) : zoneField z = le16 (BitVec.twoPow 16 (z - 1).toNat) := by
  rw [zoneField, BitVec.twoPow_eq]

end Sys2Proof.Machine

namespace Sys2Proof.Proofs
open Sys2Proof.Machine

/-- Settles O36: the value is the power of two of bit `z - 1`. -/
theorem zoneFieldHasExactlyItsBit : Obligations.ZoneFieldHasExactlyItsBit := by
  intro z h1 h16
  have hbit : ((z : Int) - 1).toNat = z - 1 := by omega
  have hlt : z - 1 < 16 := by omega
  rw [zoneField_eq, hbit]
  refine ⟨?_, BitVec.twoPow 16 (z - 1), rfl, fun i _ => ?_⟩
  · rw [le16_eq, BitVec.toNat_twoPow_of_lt hlt, zoneBytes]
  · simp [BitVec.getLsbD_twoPow, hlt, eq_comm]

end Sys2Proof.Proofs

/-! ### The envelope of a frame (30 R60, R61) -/

namespace Sys2Proof.Machine

/-- A frame that an operation returns is the layout of 30 R60 around some payload, with the old `SEQ` as marker. -/
theorem eq_frameBytes_of_exec {i : Instr} {s t : State} {f : Bytes} (h : exec i s = .next t)
    (hf : t.result = some (.ok (.frame f))) : ∃ p, f = frameBytes s.cfg s.seq p := by
  by_cases hi : i = .seqadv
  · subst hi; cases h; cases hf
  · obtain ⟨r, hr, hframe⟩ := exec_frame_cases hi h
    obtain rfl : r = .ok (.frame f) := by simpa [hr] using hf
    obtain ⟨hnone, -⟩ | ⟨p, hsome, -⟩ := hframe
    · cases hnone
    · exact ⟨p, by simpa [Result.frame?] using hsome⟩

end Sys2Proof.Machine

namespace Sys2Proof.Proofs
open Sys2Proof.Machine

/-- Settles O41: the frame is `frameBytes` of some payload. -/
theorem framesHaveTheEnvelopeLayout : Obligations.FramesHaveTheEnvelopeLayout := by
  intro i s t f h hf
  obtain ⟨p, rfl⟩ := eq_frameBytes_of_exec h hf
  refine ⟨p, frameBytes_length _ _ _, rfl, rfl, ?_⟩
  simp [frameBytes_eq, checksum]

end Sys2Proof.Proofs

/-! ### The table's payload rows (30 R83, R84) -/

namespace Sys2Proof

theorem WireRow.matches_iff {row : WireRow} {p : Bytes} :
    row.matches p = true ↔ p.length = row.mask.length ∧ List.zipWith (· &&& ·) p row.mask = row.pat := by
  simp [WireRow.matches]

/-- Two rows can share a payload: they have one length, and their patterns agree in the bits both masks fix. -/
abbrev WireRow.Compatible (a b : WireRow) : Prop :=
  a.mask.length = b.mask.length ∧ List.zipWith (· &&& ·) a.pat b.mask = List.zipWith (· &&& ·) b.pat a.mask

theorem zipWith_and_right_comm (p q r : Bytes) :
    List.zipWith (· &&& ·) (List.zipWith (· &&& ·) p q) r = List.zipWith (· &&& ·) (List.zipWith (· &&& ·) p r) q := by
  apply List.ext_getElem (by simp; omega)
  intro k _ _
  simp only [List.getElem_zipWith, BitVec.and_assoc]
  exact congrArg _ (BitVec.and_comm _ _)

theorem WireRow.compatible_of_matches {a b : WireRow} {p : Bytes} (ha : a.matches p = true) (hb : b.matches p = true) :
    a.Compatible b := by
  obtain ⟨hla, hpa⟩ := matches_iff.mp ha
  obtain ⟨hlb, hpb⟩ := matches_iff.mp hb
  exact ⟨hla.symm.trans hlb, by rw [← hpa, ← hpb, zipWith_and_right_comm]⟩

theorem wireRows_compatible : ∀ a ∈ wireRows, ∀ b ∈ wireRows, a.Compatible b →
    a = b ∨ a.opsel ∈ [0x10#8, 0x11#8] ∧ b.opsel ∈ [0x10#8, 0x11#8] := by
  decide

end Sys2Proof

namespace Sys2Proof.Proofs

/-- Settles O9: rows that share a payload are compatible, and of the ten rows only PING's and GETNZ's are. -/
theorem tableRowsAreDisjoint : Obligations.TableRowsAreDisjoint := by
  intro a b p ha hb hap hbp
  exact (wireRows_compatible a ha b hb (WireRow.compatible_of_matches hap hbp)).imp_left (congrArg _)

end Sys2Proof.Proofs

/-! ### The fields of a delivered payload (30 R66 to R72) -/

namespace Sys2Proof.Machine

/-- The bitmask of zone `z` is read back as `z` (30 R71). -/
theorem zoneOfMask_twoPow {z : Int} (h1 : 1 ≤ z) (h16 : z ≤ 16) :
    zoneOfMask (BitVec.twoPow 16 (z - 1).toNat) = .int z.toNat := by
  interval_cases z <;> rfl

theorem exists_of_map_eq_ok {ε α β : Type} {x : Except ε α} {f : α → β} {b : β} (h : x.map f = .ok b) :
    ∃ a, x = .ok a ∧ f a = b := by
  cases x with
  | error e => cases h
  | ok a => exact ⟨a, rfl, Except.ok.inj h⟩

theorem exists_of_bind_eq_ok {ε α β : Type} {x : Except ε α} {f : α → Except ε β} {b : β} (h : x.bind f = .ok b) :
    ∃ a, x = .ok a ∧ f a = .ok b := by
  cases x with
  | error e => cases h
  | ok a => exact ⟨a, rfl, h⟩

theorem exists_bytes_of_le16 (v : Half) : ∃ lo hi, le16 v = [lo, hi] ∧ unle16 lo hi = v :=
  ⟨v.extractLsb' 0 8, v.extractLsb' 8 8, rfl, Proofs.littleEndianFieldsRoundTrip.2.2 v _ _ rfl⟩

section
variable {argW : Nat} {zone : Arg} {p : Bytes}

/-- The two bytes of a legal zone's field hold the zone. -/
theorem zoneField_of_vZone {z : Int} (hw : 10 ≤ argW) (h : vZone zone = .ok z) :
    ∃ lo hi, zoneField z = [lo, hi] ∧ (zoneOfMask (unle16 lo hi)).read argW = zone := by
  obtain ⟨rfl, h1, h16⟩ := (vZone_ok_iff zone z).mp h
  obtain ⟨lo, hi, hbytes, hmask⟩ := exists_bytes_of_le16 (BitVec.twoPow 16 (z - 1).toNat)
  refine ⟨lo, hi, (zoneField_eq z).trans hbytes, ?_⟩
  rw [hmask, zoneOfMask_twoPow h1 h16, PortArg.read_int_of_lt hw (by omega), Int.toNat_of_nonneg (by omega)]

/-- A byte operand in range is read back from its field (30 R72). -/
theorem read_byteField {v : Int} (hw : 10 ≤ argW) (h0 : 0 ≤ v) (h255 : v ≤ 255) :
    (PortArg.int (byteField v).toNat).read argW = .int v := by
  have hbyte : (byteField v).toNat = v := by
    rw [byteField, BitVec.toNat_ofInt]
    omega
  rw [PortArg.read_int_of_lt hw (by omega), hbyte]

theorem read_of_vBrt {a : Arg} {v : Int} (hw : 10 ≤ argW) (h : vBrt a = .ok v) :
    (PortArg.int (byteField v).toNat).read argW = a := by
  obtain ⟨rfl, h1, h255⟩ := (vBrt_ok_iff a v).mp h
  exact read_byteField hw (by omega) h255

theorem read_of_vTemp {a : Arg} {v : Int} (hw : 10 ≤ argW) (h : vTemp a = .ok v) :
    (PortArg.int (byteField v).toNat).read argW = a := by
  obtain ⟨rfl, h0, h255⟩ := (validate_ok_iff 0 255 a v).mp h
  exact read_byteField hw h0 h255

theorem read_of_vComp {a : Arg} {v : Int} (hw : 10 ≤ argW) (h : vComp a = .ok v) :
    (PortArg.int (byteField v).toNat).read argW = a := read_of_vTemp hw h

theorem powerPayload_fields {onOff : Byte} (hw : 10 ≤ argW) (h : powerPayload onOff zone = .ok p) :
    ∃ lo hi, p = [0x0A#8, 0x01#8, lo, hi, onOff] ∧ (zoneOfMask (unle16 lo hi)).read argW = zone := by
  rw [powerPayload_eq] at h
  obtain ⟨z, hz, rfl⟩ := exists_of_map_eq_ok h
  obtain ⟨lo, hi, hfield, hzone⟩ := zoneField_of_vZone hw hz
  exact ⟨lo, hi, by rw [hfield]; rfl, hzone⟩

theorem zoneInfoPayload_fields {c : Config} (hw : 10 ≤ argW) (h : zoneInfoPayload c zone = .ok p) :
    ∃ lo hi, p = [0x78#8, lo, hi] ++ zeros c.gziPad ∧ (zoneOfMask (unle16 lo hi)).read argW = zone := by
  rw [zoneInfoPayload_eq] at h
  obtain ⟨z, hz, rfl⟩ := exists_of_map_eq_ok h
  obtain ⟨lo, hi, hfield, hzone⟩ := zoneField_of_vZone hw hz
  exact ⟨lo, hi, by rw [hfield]; rfl, hzone⟩

theorem levelPayload_fields {opcode : Byte} {v : Arg → Except ArgCause Int} {value : Arg} (hw : 10 ≤ argW)
    (hread : ∀ l, v value = .ok l → (PortArg.int (byteField l).toNat).read argW = value)
    (h : levelPayload opcode v zone value = .ok p) :
    ∃ lo hi b, p = [opcode, 0x02#8, lo, hi, 0x00#8, b] ∧ (zoneOfMask (unle16 lo hi)).read argW = zone ∧
      (PortArg.int b.toNat).read argW = value := by
  rw [levelPayload_eq] at h
  obtain ⟨z, hz, h⟩ := exists_of_bind_eq_ok h
  obtain ⟨l, hl, rfl⟩ := exists_of_map_eq_ok h
  obtain ⟨lo, hi, hfield, hzone⟩ := zoneField_of_vZone hw hz
  exact ⟨lo, hi, byteField l, by rw [hfield]; rfl, hzone, hread l hl⟩

theorem rgbwPayload_fields {c : Config} {r g b w : Arg} (hw : 10 ≤ argW) (h : rgbwPayload c zone r g b w = .ok p) :
    ∃ lo hi br bg bb bw, p = [0x01#8, 0x07#8, lo, hi, br, bg, bb, bw] ++ zeros c.rgbwPad ∧
      (zoneOfMask (unle16 lo hi)).read argW = zone ∧ (PortArg.int br.toNat).read argW = r ∧
      (PortArg.int bg.toNat).read argW = g ∧ (PortArg.int bb.toNat).read argW = b ∧
      (PortArg.int bw.toNat).read argW = w := by
  rw [rgbwPayload_eq] at h
  obtain ⟨z, hz, h⟩ := exists_of_bind_eq_ok h
  obtain ⟨⟨vr, vg, vb, vw⟩, hv, rfl⟩ := exists_of_map_eq_ok h
  obtain ⟨lo, hi, hfield, hzone⟩ := zoneField_of_vZone hw hz
  obtain ⟨hr, hg, hb, hwhite, -⟩ := (vRgbw_ok_iff r g b w vr vg vb vw).mp hv
  exact ⟨lo, hi, byteField vr, byteField vg, byteField vb, byteField vw, by rw [hfield]; rfl, hzone,
    read_of_vComp hw hr, read_of_vComp hw hg, read_of_vComp hw hb, read_of_vComp hw hwhite⟩

end

theorem masterPayload_default {c : Config} (h : c.bcastMask = 0xFFFF#16) (onOff : Byte) :
    masterPayload c onOff = [0x0B#8, 0x03#8, 0xFF#8, 0xFF#8, onOff] := by
  rw [masterPayload, h]; rfl

theorem payload_of_command {payload : Except ArgCause Bytes} {s : State} {p : Bytes}
    (h : command .payload payload s = .next { s with result := some (.ok (.payload p)) }) : payload = .ok p := by
  cases payload with
  | error c => simp at h
  | ok q => simpa using h

end Sys2Proof.Machine

namespace Sys2Proof

/-- Read back by the table, the payload is a request for the instruction. -/
def ReadsAs (argW : Nat) (p : Bytes) (i : Instr) : Prop := ∃ r, wireRequest p = some r ∧ decode argW r = .ok i

/-- A payload of a row other than PING's and GETNZ's reads as the request of that row. -/
theorem wireRequest_of_matches {row : WireRow} {p : Bytes} (hrow : row ∈ wireRows) (hp : row.matches p = true)
    (hop : row.opsel ∉ [0x10#8, 0x11#8]) :
    wireRequest p = some { opsel := row.opsel, f := false, args := row.args p, input := [] } := by
  cases hfind : wireRows.find? (·.matches p) with
  | none => exact absurd hp (List.find?_eq_none.mp hfind row hrow)
  | some b =>
    have hbp := List.find?_some hfind
    obtain rfl | ⟨hping, -⟩ := wireRows_compatible row hrow b (List.mem_of_find?_eq_some hfind)
      (WireRow.compatible_of_matches hp hbp)
    · rw [wireRequest, hfind, Option.map_some]
    · exact absurd hping hop

theorem readsAs_of_row {argW : Nat} {row : WireRow} {p : Bytes} {i : Instr} (hrow : row ∈ wireRows)
    (hop : row.opsel ∉ [0x10#8, 0x11#8]) (hp : row.matches p = true)
    (hdec : decode argW { opsel := row.opsel, f := false, args := row.args p, input := [] } = .ok i) :
    ReadsAs argW p i :=
  ⟨_, wireRequest_of_matches hrow hp hop, hdec⟩

section
variable (argW : Nat) (lo hi b br bg bb bw : Byte)

theorem readsAs_pwron :
    ReadsAs argW [0x0A#8, 0x01#8, lo, hi, 0x01#8] (.pwron .payload ((zoneOfMask (unle16 lo hi)).read argW)) :=
  readsAs_of_row (row := wireRows[2]) (List.getElem_mem _) (by decide) (by simp [WireRow.matches_iff, wireRows]) rfl

theorem readsAs_pwroff :
    ReadsAs argW [0x0A#8, 0x01#8, lo, hi, 0x00#8] (.pwroff .payload ((zoneOfMask (unle16 lo hi)).read argW)) :=
  readsAs_of_row (row := wireRows[3]) (List.getElem_mem _) (by decide) (by simp [WireRow.matches_iff, wireRows]) rfl

theorem readsAs_brt :
    ReadsAs argW [0x07#8, 0x02#8, lo, hi, 0x00#8, b]
      (.brt .payload ((zoneOfMask (unle16 lo hi)).read argW) ((PortArg.int b.toNat).read argW)) :=
  readsAs_of_row (row := wireRows[6]) (List.getElem_mem _) (by decide) (by simp [WireRow.matches_iff, wireRows]) rfl

theorem readsAs_temp :
    ReadsAs argW [0x0D#8, 0x02#8, lo, hi, 0x00#8, b]
      (.temp .payload ((zoneOfMask (unle16 lo hi)).read argW) ((PortArg.int b.toNat).read argW)) :=
  readsAs_of_row (row := wireRows[7]) (List.getElem_mem _) (by decide) (by simp [WireRow.matches_iff, wireRows]) rfl

theorem readsAs_rgbw :
    ReadsAs argW ([0x01#8, 0x07#8, lo, hi, br, bg, bb, bw] ++ Machine.zeros 3)
      (.rgbw .payload ((zoneOfMask (unle16 lo hi)).read argW) ((PortArg.int br.toNat).read argW)
        ((PortArg.int bg.toNat).read argW) ((PortArg.int bb.toNat).read argW) ((PortArg.int bw.toNat).read argW)) :=
  readsAs_of_row (row := wireRows[8]) (List.getElem_mem _) (by decide)
    (by simp [WireRow.matches_iff, wireRows, Machine.zeros]) rfl

theorem readsAs_getzi :
    ReadsAs argW ([0x78#8, lo, hi] ++ Machine.zeros 2) (.getzi .payload ((zoneOfMask (unle16 lo hi)).read argW)) :=
  readsAs_of_row (row := wireRows[9]) (List.getElem_mem _) (by decide)
    (by simp [WireRow.matches_iff, wireRows, Machine.zeros]) rfl

end

end Sys2Proof

namespace Sys2Proof.Proofs
open Sys2Proof.Machine

/-- Settles O8: the operation shows the marshalled payload, whose field bytes hold the operands, and the table reads
those bytes back. -/
theorem payloadsBelongToTheirTableRows : Obligations.PayloadsBelongToTheirTableRows := by
  intro i s p hmode hne hmask hrgbw hgzi hw h
  change ReadsAs s.cfg.argW p i
  cases i with
  | seqrd | seqadv | enc | dec | rspnz | rspzi => cases hmode
  | getnz => cases hmode; exact absurd rfl hne
  | ping =>
    cases hmode
    obtain rfl := Except.ok.inj (payload_of_command (payload := .ok pingPayload) h)
    exact ⟨_, rfl, rfl⟩
  | mpwron =>
    cases hmode
    obtain rfl := Except.ok.inj (payload_of_command (payload := .ok (masterPayload s.cfg 0x01#8)) h)
    rw [masterPayload_default hmask]
    exact ⟨_, rfl, rfl⟩
  | mpwroff =>
    cases hmode
    obtain rfl := Except.ok.inj (payload_of_command (payload := .ok (masterPayload s.cfg 0x00#8)) h)
    rw [masterPayload_default hmask]
    exact ⟨_, rfl, rfl⟩
  | pwron =>
    cases hmode
    obtain ⟨lo, hi, rfl, rfl⟩ := powerPayload_fields hw (payload_of_command h)
    exact readsAs_pwron _ lo hi
  | pwroff =>
    cases hmode
    obtain ⟨lo, hi, rfl, rfl⟩ := powerPayload_fields hw (payload_of_command h)
    exact readsAs_pwroff _ lo hi
  | brt =>
    cases hmode
    obtain ⟨lo, hi, b, rfl, rfl, rfl⟩ := levelPayload_fields hw (fun _ => read_of_vBrt hw) (payload_of_command h)
    exact readsAs_brt _ lo hi b
  | temp =>
    cases hmode
    obtain ⟨lo, hi, b, rfl, rfl, rfl⟩ := levelPayload_fields hw (fun _ => read_of_vTemp hw) (payload_of_command h)
    exact readsAs_temp _ lo hi b
  | rgbw =>
    cases hmode
    obtain ⟨lo, hi, br, bg, bb, bw, rfl, rfl, rfl, rfl, rfl, rfl⟩ := rgbwPayload_fields hw (payload_of_command h)
    rw [hrgbw]
    exact readsAs_rgbw _ lo hi br bg bb bw
  | getzi =>
    cases hmode
    obtain ⟨lo, hi, rfl, rfl⟩ := zoneInfoPayload_fields hw (payload_of_command h)
    rw [hgzi]
    exact readsAs_getzi _ lo hi

end Sys2Proof.Proofs
end

section
/-! PROOF. The sequence counter (41): what SEQRD and SEQADV do (41 R121, R122), and a run of SEQADV. -/

namespace Sys2Proof.Machine

theorem exec_seqrd (s : State) : exec .seqrd s = .next { s with result := some (.ok (.byte s.seq)) } := rfl

theorem exec_seqadv (s : State) :
    exec .seqadv s = .next { s with seq := s.seq + 1#8, result := some (.ok .nothing) } := rfl

theorem runAll_replicate_seqadv (n : Nat) (s : State) :
    (runAll (List.replicate n .seqadv) s).1 = List.replicate n (.ok .nothing) ∧
      (runAll (List.replicate n .seqadv) s).2.seq = advanced s.seq n := by
  induction n generalizing s with
  | zero => simp [runAll]
  | succ n ih =>
    obtain ⟨hresults, hseq⟩ := ih { s with seq := s.seq + 1#8, result := some (.ok .nothing) }
    rw [List.replicate_succ, List.replicate_succ, runAll_cons (exec_seqadv s) rfl, advanced_succ]
    exact ⟨congrArg _ hresults, hseq⟩

end Sys2Proof.Machine

namespace Sys2Proof.Proofs
open Sys2Proof.Machine

/-- Settles O27. -/
theorem seqrdReturnsTheCounter : Obligations.SeqrdReturnsTheCounter := exec_seqrd

/-- Settles O28: adding one to a byte is adding one modulo 256, and a run of SEQADV is an induction on its length. -/
theorem seqadvAdvancesModulo256 : Obligations.SeqadvAdvancesModulo256 := by
  constructor
  · intro s
    rw [exec_seqadv, byte_add_one]
  · exact runAll_replicate_seqadv

end Sys2Proof.Proofs
end

section
/-! PROOF. The commands (42): every command validates its operands, marshals its payload and delivers it (42 R130, R131);
what each payload holds and which failure is reported (42 R132 to R141), and that mode and `SEQ` enter in the delivery
only (42 R142, R143). -/

/-! ### The delivery, written out (42 R130, R131, 43 R166) -/

namespace Sys2Proof.Machine

theorem frameBytes_eq_frameOf (c : Config) (mk : Byte) (p : Bytes) : frameBytes c mk p = frameOf c.chk mk p := by
  simp [frameBytes_eq, frameOf, checksum]

theorem deliver_eq_delivered (f : Mode) (p : Bytes) (s : State) : deliver f p s = .next (delivered f p s) := by
  cases f with
  | payload => rfl
  | frame => rw [deliver_frame, buildFrame_eq, byte_add_one, frameBytes_eq_frameOf]; rfl

section
variable {payload : Except ArgCause Bytes} (f : Mode) (s : State)

theorem command_eq_delivered {p : Bytes} (h : payload = .ok p) : command f payload s = .next (delivered f p s) := by
  rw [h, command_ok, deliver_eq_delivered]

theorem command_eq_failed {c : ArgCause} (h : payload = .error c) :
    command f payload s = .next (failed (.arg c) s) := by
  rw [h, command_error, raise_eq, failed]

end

/-! ### The validators on legal and illegal operands (40 R102 to R106) -/

theorem vZone_int {v : Int} (h1 : 1 ≤ v) (h16 : v ≤ 16) : vZone (.int v) = .ok v :=
  (vZone_ok_iff _ _).mpr ⟨rfl, h1, h16⟩

theorem vZone_of_illegal {v : Int} (h : v < 1 ∨ 16 < v) : vZone (.int v) = .error .aRange := by
  rw [vZone, validate_int, if_pos h]

theorem vBrt_of_legal {l : Nat} (h1 : 1 ≤ l) (h255 : l ≤ 255) : vBrt (.int l) = .ok (l : Int) :=
  (vBrt_ok_iff _ _).mpr ⟨rfl, by omega, by omega⟩

theorem vBrt_zero : vBrt (.int 0) = .error .aZero := rfl

theorem vBrt_of_illegal {v : Int} (h : v < 0 ∨ 255 < v) : vBrt (.int v) = .error .aRange := by
  have h0 : v ≠ 0 := by omega
  have hrange : v < 1 ∨ 255 < v := by omega
  rw [vBrt, if_neg h0, if_pos hrange]

theorem vTemp_of_legal {t : Nat} (h255 : t ≤ 255) : vTemp (.int t) = .ok (t : Int) :=
  (validate_ok_iff 0 255 _ _).mpr ⟨rfl, by omega, by omega⟩

theorem vTemp_of_illegal {v : Int} (h : v < 0 ∨ 255 < v) : vTemp (.int v) = .error .aRange := by
  rw [vTemp, validate_int, if_pos h]

theorem vComp_of_legal {n : Nat} (h255 : n ≤ 255) : vComp (.int n) = .ok (n : Int) := vTemp_of_legal h255

/-- A component passes its validation, or fails with its cause (40 R105). -/
theorem vComp_cases (a : Arg) :
    (∃ v, vComp a = .ok v ∧ componentCause a = none) ∨ (∃ c, vComp a = .error c ∧ componentCause a = some c) := by
  cases a with
  | nonInt => exact .inr ⟨.aType, rfl, rfl⟩
  | int v =>
    by_cases h : 0 ≤ v ∧ v ≤ 255
    · exact .inl ⟨v, (validate_ok_iff 0 255 _ v).mpr ⟨rfl, h⟩, if_pos h⟩
    · exact .inr ⟨.aRange, vTemp_of_illegal (by omega), if_neg h⟩

theorem vRgbw_of_legal {r g b w : Nat} (hr : r ≤ 255) (hg : g ≤ 255) (hb : b ≤ 255) (hw : w ≤ 255)
    (hpos : 0 < r + g + b + w) :
    vRgbw (.int r) (.int g) (.int b) (.int w) = .ok ((r : Int), (g : Int), (b : Int), (w : Int)) :=
  (vRgbw_ok_iff _ _ _ _ _ _ _ _).mpr
    ⟨vComp_of_legal hr, vComp_of_legal hg, vComp_of_legal hb, vComp_of_legal hw, by omega⟩

theorem vRgbw_zero : vRgbw (.int 0) (.int 0) (.int 0) (.int 0) = .error .aAllZero := rfl

/-- The failure that is first among `a` and the components after it: `a`'s own, or theirs when `a` passes. -/
theorem bind_vComp_of_first_failure {α : Type} {a : Arg} {as : List Arg} {rest : Int → Except ArgCause α} {c : ArgCause}
    (h : (a :: as).findSome? componentCause = some c)
    (hrest : ∀ v, as.findSome? componentCause = some c → rest v = .error c) : (vComp a).bind rest = .error c := by
  rw [List.findSome?_cons] at h
  obtain ⟨v, hv, hcause⟩ | ⟨c', hv, hcause⟩ := vComp_cases a
  · rw [hcause] at h
    rw [hv, Except.bind, hrest v h]
  · rw [hcause] at h
    rw [hv, Except.bind, Option.some.inj h]

/-- The first component that fails is the one reported (40 R106). -/
theorem vRgbw_of_first_failure {r g b w : Arg} {c : ArgCause} (h : [r, g, b, w].findSome? componentCause = some c) :
    vRgbw r g b w = .error c :=
  bind_vComp_of_first_failure h fun _ h => bind_vComp_of_first_failure h fun _ h =>
    bind_vComp_of_first_failure h fun _ h => bind_vComp_of_first_failure h fun _ h => by cases h

/-! ### The payloads of legal operands (30 R65 to R72) -/

/-- A byte operand is written unsigned (30 R72). -/
@[simp] theorem byteField_natCast (n : Nat) : byteField n = BitVec.ofNat 8 n := BitVec.ofInt_natCast 8 n

theorem masterPayload_eq (c : Config) (onOff : Byte) :
    masterPayload c onOff = [0x0B#8, 0x03#8, BitVec.ofNat 8 (c.bcastMask.toNat % 256),
      BitVec.ofNat 8 (c.bcastMask.toNat / 256), onOff] := by
  rw [masterPayload, le16_eq]; rfl

section
variable {z : Nat} (h1 : 1 ≤ z) (h16 : z ≤ 16)
include h1 h16

theorem zoneField_eq_zoneBytes : zoneField z = zoneBytes z := (Proofs.zoneFieldHasExactlyItsBit z h1 h16).1

theorem powerPayload_of_legal (onOff : Byte) :
    powerPayload onOff (.int z) = .ok ([0x0A#8, 0x01#8] ++ zoneBytes z ++ [onOff]) := by
  rw [powerPayload_eq, vZone_of_legal h1 h16, Except.map, zoneField_eq_zoneBytes h1 h16]

theorem levelPayload_of_legal {opcode : Byte} {v : Arg → Except ArgCause Int} {value : Arg} {l : Nat}
    (hv : v value = .ok (l : Int)) : levelPayload opcode v (.int z) value =
      .ok ([opcode, 0x02#8] ++ zoneBytes z ++ [0x00#8, BitVec.ofNat 8 l]) := by
  rw [levelPayload_eq, vZone_of_legal h1 h16, Except.bind, hv, Except.map, zoneField_eq_zoneBytes h1 h16,
    byteField_natCast]

theorem rgbwPayload_of_legal {c : Config} {ar ag ab aw : Arg} {r g b w : Nat}
    (hv : vRgbw ar ag ab aw = .ok ((r : Int), (g : Int), (b : Int), (w : Int))) : rgbwPayload c (.int z) ar ag ab aw =
      .ok ([0x01#8, 0x07#8] ++ zoneBytes z ++
        [BitVec.ofNat 8 r, BitVec.ofNat 8 g, BitVec.ofNat 8 b, BitVec.ofNat 8 w] ++
        List.replicate c.rgbwPad 0x00#8) := by
  rw [rgbwPayload_eq, vZone_of_legal h1 h16, Except.bind, hv, Except.map, zoneField_eq_zoneBytes h1 h16, zeros]
  simp only [byteField_natCast]

theorem zoneInfoPayload_of_legal (c : Config) : zoneInfoPayload c (.int z) =
      .ok ([0x78#8] ++ zoneBytes z ++ List.replicate c.gziPad 0x00#8) := by
  rw [zoneInfoPayload_eq, vZone_of_legal h1 h16, Except.map, zoneField_eq_zoneBytes h1 h16, zeros]

end

/-! ### The zone's failure comes first (40 R109, 60 R217 (a)) -/

/-- An operation on a zone that is out of range fails with `A_RANGE`, whatever follows the zone. -/
theorem exec_of_zone_illegal {i : Instr} {v : Int} {rest : List Arg} (s : State) (h : i.operands = .int v :: rest)
    (hv : v < 1 ∨ 16 < v) : exec i s = .next (failed (.arg .aRange) s) := by
  have hz := vZone_of_illegal hv
  cases i with
  | seqrd | seqadv | enc | dec | ping | getnz | mpwron | mpwroff | rspnz | rspzi => cases h
  | pwron | pwroff => cases h; exact command_eq_failed _ s (by rw [powerPayload_eq, hz, Except.map])
  | brt | temp => cases h; exact command_eq_failed _ s (by rw [levelPayload_eq, hz, Except.bind])
  | rgbw => cases h; exact command_eq_failed _ s (by rw [rgbwPayload_eq, hz, Except.bind])
  | getzi => cases h; exact command_eq_failed _ s (by rw [zoneInfoPayload_eq, hz, Except.map])

end Sys2Proof.Machine

/-! ### The ten commands (42 R132 to R141) -/

namespace Sys2Proof.Proofs
open Sys2Proof.Machine

/-- Settles O29: both commands marshal the literal without validating anything. -/
theorem pingAndGetnzDeliverTheLiteral : Obligations.PingAndGetnzDeliverTheLiteral :=
  fun f s => ⟨command_eq_delivered f s rfl, command_eq_delivered f s rfl⟩

/-- Settles O30. -/
theorem powerCommandsSwitchOneZone : Obligations.PowerCommandsSwitchOneZone := by
  refine ⟨fun f s z h1 h16 => ⟨?_, ?_⟩, fun f s v hv => ⟨?_, ?_⟩, fun f s => ⟨?_, ?_⟩⟩
  · exact command_eq_delivered f s (powerPayload_of_legal h1 h16 0x01#8)
  · exact command_eq_delivered f s (powerPayload_of_legal h1 h16 0x00#8)
  · exact exec_of_zone_illegal s rfl hv
  · exact exec_of_zone_illegal s rfl hv
  · exact exec_of_zone_nonInt s rfl
  · exact exec_of_zone_nonInt s rfl

/-- Settles O31. -/
theorem masterCommandsUseTheBroadcastMask : Obligations.MasterCommandsUseTheBroadcastMask := by
  intro f s
  rw [← masterPayload_eq, ← masterPayload_eq]
  exact ⟨command_eq_delivered f s rfl, command_eq_delivered f s rfl⟩

/-- Settles O32: the zone is validated before the level, and the level's failures are those of `vBrt`. -/
theorem brightnessCommandSetsALevel : Obligations.BrightnessCommandSetsALevel := by
  refine ⟨fun f s z l h1 h16 hl1 hl255 => ?_, fun f s a => exec_of_zone_nonInt s rfl,
    fun f s v a hv => exec_of_zone_illegal s rfl hv, fun f s z h1 h16 => ?_⟩
  · exact command_eq_delivered f s (levelPayload_of_legal h1 h16 (vBrt_of_legal hl1 hl255))
  · have hz := vZone_int h1 h16
    exact ⟨command_eq_failed f s (levelPayload_error hz vBrt_nonInt),
      command_eq_failed f s (levelPayload_error hz vBrt_zero),
      fun v hv => command_eq_failed f s (levelPayload_error hz (vBrt_of_illegal hv))⟩

/-- Settles O33: the zone is validated before the value, and the value's failures are those of `vTemp`. -/
theorem temperatureCommandSetsAValue : Obligations.TemperatureCommandSetsAValue := by
  refine ⟨fun f s z t h1 h16 ht255 => ?_, fun f s a => exec_of_zone_nonInt s rfl,
    fun f s v a hv => exec_of_zone_illegal s rfl hv, fun f s z h1 h16 => ?_⟩
  · exact command_eq_delivered f s (levelPayload_of_legal h1 h16 (vTemp_of_legal ht255))
  · have hz := vZone_int h1 h16
    exact ⟨command_eq_failed f s (levelPayload_error hz vTemp_nonInt),
      fun v hv => command_eq_failed f s (levelPayload_error hz (vTemp_of_illegal hv))⟩

/-- Settles O34: the zone is validated first, then `vRgbw` reports the first failing component or the all-zero rule. -/
theorem colourCommandSetsFourComponents : Obligations.ColourCommandSetsFourComponents := by
  refine ⟨fun f s z r g b w h1 h16 hr hg hb hw hpos => ?_, fun f s r g b w => exec_of_zone_nonInt s rfl,
    fun f s v r g b w hv => exec_of_zone_illegal s rfl hv, fun f s z r g b w c h1 h16 hc => ?_, fun f s z h1 h16 => ?_⟩
  · exact command_eq_delivered f s (rgbwPayload_of_legal h1 h16 (vRgbw_of_legal hr hg hb hw hpos))
  · rw [List.head?_filterMap] at hc
    exact command_eq_failed f s (rgbwPayload_error (vZone_int h1 h16) (vRgbw_of_first_failure hc))
  · exact command_eq_failed f s (rgbwPayload_error (vZone_int h1 h16) vRgbw_zero)

/-- Settles O35. -/
theorem zoneInfoQueryNamesItsZone : Obligations.ZoneInfoQueryNamesItsZone :=
  ⟨fun f s _ h1 h16 => command_eq_delivered f s (zoneInfoPayload_of_legal h1 h16 s.cfg),
    fun _ s _ hv => exec_of_zone_illegal s rfl hv, fun _ s => exec_of_zone_nonInt s rfl⟩

end Sys2Proof.Proofs

/-! ### The mode and the counter enter in the delivery only (42 R142, R143) -/

namespace Sys2Proof.Machine

theorem inMode_of_modeOf {i : Instr} {f : Mode} (h : modeOf i = some f) : inMode f i = i := by
  cases i with
  | seqrd | seqadv | enc | dec | rspnz | rspzi => rfl
  | ping | getnz | pwron | pwroff | mpwron | mpwroff | brt | temp | rgbw | getzi => cases h; rfl

/-- In every mode, a command operation marshals one payload that the parameters determine, and delivers it in the mode;
the payload fits `MAXPAY`. -/
def Marshals (i : Instr) (payload : Config → Except ArgCause Bytes) : Prop :=
  PayloadFits payload ∧ ∀ m s, exec (inMode m i) s = command m (payload s.cfg) s

theorem exists_marshals {i : Instr} {f : Mode} (h : modeOf i = some f) : ∃ payload, Marshals i payload := by
  cases i with
  | seqrd | seqadv | enc | dec | rspnz | rspzi => cases h
  | ping f => exact ⟨_, pingPayload_fits, fun _ _ => rfl⟩
  | getnz f => exact ⟨_, pingPayload_fits, fun _ _ => rfl⟩
  | pwron f zone => exact ⟨_, powerPayload_fits 0x01#8 zone, fun _ _ => rfl⟩
  | pwroff f zone => exact ⟨_, powerPayload_fits 0x00#8 zone, fun _ _ => rfl⟩
  | mpwron f => exact ⟨_, masterPayload_fits 0x01#8, fun _ _ => rfl⟩
  | mpwroff f => exact ⟨_, masterPayload_fits 0x00#8, fun _ _ => rfl⟩
  | brt f zone level => exact ⟨_, levelPayload_fits 0x07#8 vBrt zone level, fun _ _ => rfl⟩
  | temp f zone value => exact ⟨_, levelPayload_fits 0x0D#8 vTemp zone value, fun _ _ => rfl⟩
  | rgbw f zone r g b w => exact ⟨_, rgbwPayload_fits zone r g b w, fun _ _ => rfl⟩
  | getzi f zone => exact ⟨_, zoneInfoPayload_fits zone, fun _ _ => rfl⟩

/-- ENC frames a payload that fits `MAXPAY` as a command in mode `.F` does (43 R167). -/
theorem exec_enc_of_le {p : Bytes} {s : State} (h : p.length ≤ s.cfg.maxPay) :
    exec (.enc p) s = command .frame (.ok p) s := by
  rw [exec_enc, encPayload, if_neg (not_lt.mpr h)]

/-- States of the same parameters get one answer: all of them the same failure, or all of them the same payload. -/
theorem exec_uniform {i : Instr} {f : Mode} (c : Config) (h : modeOf i = some f) :
    (∃ e, ∀ s : State, s.cfg = c → exec i s = .next (failed e s)) ∨
    (∃ p, ∀ s : State, s.cfg = c → exec i s = .next (delivered f p s)) := by
  obtain ⟨payload, -, hexec⟩ := exists_marshals h
  have hexec : ∀ s : State, s.cfg = c → exec i s = command f (payload c) s := fun s hs => by
    rw [← hs, ← hexec, inMode_of_modeOf h]
  cases hp : payload c with
  | error e => exact .inl ⟨.arg e, fun s hs => (hexec s hs).trans (command_eq_failed f s hp)⟩
  | ok p => exact .inr ⟨p, fun s hs => (hexec s hs).trans (command_eq_delivered f s hp)⟩

end Sys2Proof.Machine

namespace Sys2Proof.Proofs
open Sys2Proof.Machine

/-- Settles O38: in mode `.P` a failure and a delivery are one result each. -/
theorem payloadsDoNotDependOnTheCounter : Obligations.PayloadsDoNotDependOnTheCounter := by
  refine ⟨fun i s hmode => ?_, fun i s hmode => exec_uniform s.cfg hmode⟩
  obtain ⟨e, h⟩ | ⟨p, h⟩ := exec_uniform s.cfg hmode
  · exact ⟨.err e, h⟩
  · exact ⟨.ok (.payload p), h⟩

/-- Settles O39: both modes marshal the same payload, and ENC accepts it because it fits `MAXPAY`. -/
theorem frameModeIsPayloadModeThenEnc : Obligations.FrameModeIsPayloadModeThenEnc := by
  intro i s hconf hmode
  obtain ⟨payload, hfits, hexec⟩ := exists_marshals hmode
  have hpay : exec i s = command .payload (payload s.cfg) s := by rw [← hexec, inMode_of_modeOf hmode]
  rw [hpay, hexec]
  refine ⟨fun p h => ?_, fun e h => ?_⟩
  · have hp := payload_of_command h
    rw [hp, exec_enc_of_le (hfits _ p hconf hp)]
  · cases hp : payload s.cfg with
    | ok p => rw [hp] at h; cases h
    | error c => rw [hp] at h; exact h

end Sys2Proof.Proofs
end

section
/-! PROOF. The frame codec (43): what ENC and DEC answer (43 R167, R170), the checksum as a sum (43 R162, R163), and
which changes of a frame a decode detects (43 R172). -/

namespace Sys2Proof.Machine

/-! ### ENC (43 R167) -/

section
variable {p : Bytes} {s : State}

theorem exec_enc_eq_delivered (h : p.length ≤ s.cfg.maxPay) : exec (.enc p) s = .next (delivered .frame p s) := by
  rw [exec_enc_of_le h, command_eq_delivered .frame s rfl]

theorem exec_enc_eq_failed (h : s.cfg.maxPay < p.length) : exec (.enc p) s = .next (failed (.arg .aLen) s) := by
  rw [exec_enc, encPayload, if_pos h, command_eq_failed .frame s rfl]

/-- ENC returns a frame only of a payload that fits, and it is that payload's. -/
theorem frame_of_exec_enc {t : State} {f : Bytes} (h : exec (.enc p) s = .next t)
    (hf : t.result = some (.ok (.frame f))) : p.length ≤ s.cfg.maxPay ∧ f = frameBytes s.cfg s.seq p := by
  by_cases hp : p.length ≤ s.cfg.maxPay
  · rw [exec_enc_eq_delivered hp] at h
    cases h; cases hf
    exact ⟨hp, (frameBytes_eq_frameOf _ _ _).symm⟩
  · rw [exec_enc_eq_failed (not_le.mp hp)] at h
    cases h; cases hf

end

/-! ### DEC answers what `UNFRAME` finds (43 R170) -/

section
variable {raw : Bytes} {s : State} {mk : Byte} {p : Bytes}

theorem exec_dec_of_unframe_ok (h : unframe s.cfg raw = .ok (mk, p)) :
    exec (.dec raw) s = .next { s with result := some (.ok (.decoded mk p)) } := by
  rw [exec, execDec, decodeFrame, h, answer_ok]

theorem exec_dec_of_unframe_error {e : DecCause} (h : unframe s.cfg raw = .error e) :
    exec (.dec raw) s = .next (failed (.dec e) s) := by
  rw [exec, execDec, decodeFrame, h, answer_error, failed]

theorem unframe_of_exec_dec {t : State} (h : exec (.dec raw) s = .next t)
    (ht : t.result = some (.ok (.decoded mk p))) : unframe s.cfg raw = .ok (mk, p) := by
  cases hu : unframe s.cfg raw with
  | ok q =>
    rw [exec_dec_of_unframe_ok hu] at h
    cases h; cases ht
    rfl
  | error e =>
    rw [exec_dec_of_unframe_error hu] at h
    cases h; cases ht

end

/-! ### The four checks of `UNFRAME`, in their order (43 R169) -/

/-- Marker and payload between the preamble and two more bytes: a frame when these two are the checksum and `TERM`. -/
def envelope (mk : Byte) (p : Bytes) (ck last : Byte) : Bytes :=
  [0x55#8, 0xAA#8, 0x5A#8, 0xA5#8, 0x7E#8, mk] ++ p ++ [ck, last]

theorem frameBytes_eq_envelope (c : Config) (mk : Byte) (p : Bytes) :
    frameBytes c mk p = envelope mk p (checksum c mk p) term := rfl

@[simp] theorem envelope_length (mk : Byte) (p : Bytes) (ck last : Byte) :
    (envelope mk p ck last).length = p.length + 8 := by
  simp [envelope]

section
variable {c : Config}

theorem unframe_of_length {raw : Bytes} (h : raw.length < 8 ∨ c.maxPay + 8 < raw.length) :
    unframe c raw = .error .dLen := if_pos h

theorem unframe_of_preamble {raw : Bytes} (h8 : 8 ≤ raw.length) (hmax : raw.length ≤ c.maxPay + 8)
    (h : raw.take 5 ≠ preamble) : unframe c raw = .error .dPreamble := by
  have hlen : ¬ (raw.length < 8 ∨ c.maxPay + 8 < raw.length) := by omega
  rw [unframe, if_neg hlen, if_pos h]

/-- Behind the right preamble, a payload that fits leaves the checks of the terminator and of the checksum. -/
theorem unframe_envelope {mk : Byte} {p : Bytes} (ck last : Byte) (h : p.length ≤ c.maxPay) :
    unframe c (envelope mk p ck last) =
      if last ≠ term then .error .dTerm else if checksum c mk p ≠ ck then .error .dChk else .ok (mk, p) := by
  have hlen : ¬ (p.length + 8 < 8 ∨ c.maxPay + 8 < p.length + 8) := by omega
  have hpre : (envelope mk p ck last).take 5 = preamble := rfl
  have hmk : (envelope mk p ck last).getD 5 0#8 = mk := rfl
  have hp : ((envelope mk p ck last).drop 6).take p.length = p := by simp [envelope]
  have hck : (envelope mk p ck last).getD (p.length + 6) 0#8 = ck := by simp [envelope]
  have hlast : (envelope mk p ck last).getD (p.length + 7) 0#8 = last := by simp [envelope]
  simp only [unframe, envelope_length, hlen, if_false, hpre, ne_eq, not_true, Nat.reduceSubDiff, Nat.add_sub_cancel,
    hmk, hp, hck, hlast]

end

section
variable {s : State} {mk : Byte} {p : Bytes} (hp : p.length ≤ s.cfg.maxPay)
include hp

/-- DEC accepts every frame of a payload that fits. -/
theorem exec_dec_frameBytes :
    exec (.dec (frameBytes s.cfg mk p)) s = .next { s with result := some (.ok (.decoded mk p)) } :=
  exec_dec_of_unframe_ok ((unframe_ok_iff _ _ _ _).mpr ⟨hp, rfl⟩)

theorem exec_dec_of_wrong_term {ck last : Byte} (h : last ≠ term) :
    exec (.dec (envelope mk p ck last)) s = .next (failed (.dec .dTerm) s) :=
  exec_dec_of_unframe_error ((unframe_envelope ck last hp).trans (if_pos h))

theorem exec_dec_of_wrong_checksum {ck : Byte} (h : ck ≠ checksum s.cfg mk p) :
    exec (.dec (envelope mk p ck term)) s = .next (failed (.dec .dChk) s) := by
  apply exec_dec_of_unframe_error
  rw [unframe_envelope ck term hp, if_neg (not_not.mpr rfl), if_pos h.symm]

end

/-! ### One byte of an envelope is changed -/

section
variable (mk : Byte) (p : Bytes) (ck last b : Byte)

/-- A change in marker or payload gives the envelope of the changed marker and payload. -/
theorem exists_envelope_set_body {j : Nat} (hj : j < (mk :: p).length) :
    ∃ mk' p', mk' :: p' = (mk :: p).set j b ∧ p'.length = p.length ∧
      (envelope mk p ck last).set (j + 5) b = envelope mk' p' ck last := by
  cases j with
  | zero => exact ⟨b, p, rfl, rfl, rfl⟩
  | succ j =>
    have hj : j < p.length := Nat.lt_of_succ_lt_succ hj
    exact ⟨mk, p.set j b, rfl, List.length_set, by simp [envelope, hj]⟩

theorem envelope_set_checksum : (envelope mk p ck last).set (p.length + 6) b = envelope mk p b last := by
  simp [envelope]

theorem envelope_getElem?_body {j : Nat} (hj : j < (mk :: p).length) :
    (envelope mk p ck last)[j + 5]? = (mk :: p)[j]? :=
  List.getElem?_append_left (l₁ := mk :: p) (l₂ := [ck, last]) hj

theorem envelope_getElem?_checksum : (envelope mk p ck last)[p.length + 6]? = some ck := by
  simp [envelope]

end

/-! ### `CHK_BSUM` is a sum, `CHK_ZERO` is constant (43 R163, R164) -/

theorem checksum_of_bsum {c : Config} (h : c.chk = .bsum) (mk : Byte) (p : Bytes) :
    checksum c mk p = chkBsum (mk :: p) := by
  rw [checksum, h, evalChk]

theorem checksum_of_zero {c : Config} (h : c.chk = .zero) (mk : Byte) (p : Bytes) : checksum c mk p = 0x00#8 := by
  rw [checksum, h, evalChk]

theorem toNat_foldl_add (s : Bytes) (a : Byte) :
    (s.foldl (· + ·) a).toNat = (a.toNat + (s.map BitVec.toNat).sum) % 256 := by
  induction s generalizing a with
  | nil => exact (Nat.mod_eq_of_lt a.isLt).symm
  | cons b s ih => rw [List.foldl_cons, ih, List.map_cons, List.sum_cons, BitVec.toNat_add]; omega

theorem toNat_chkBsum (s : Bytes) : (chkBsum s).toNat = (0x25 + (s.map BitVec.toNat).sum) % 256 :=
  toNat_foldl_add s 0x25#8

/-- Two bytes are equal when they are equal modulo 256, so the sum tells one changed byte. -/
theorem chkBsum_set_ne {s : Bytes} {j : Nat} {b : Byte} (hj : j < s.length) (hb : s[j]? ≠ some b) :
    chkBsum (s.set j b) ≠ chkBsum s := by
  intro h
  have hsum := congrArg BitVec.toNat h
  rw [toNat_chkBsum, toNat_chkBsum, List.set_eq_take_append_cons_drop, if_pos hj] at hsum
  have hs : s = s.take j ++ s[j] :: s.drop (j + 1) := by simp
  conv at hsum => rhs; rw [hs]
  simp only [List.map_append, List.map_cons, List.sum_append, List.sum_cons] at hsum
  have hne : s[j].toNat ≠ b.toNat := fun e =>
    hb (by rw [List.getElem?_eq_getElem hj, BitVec.eq_of_toNat_eq e])
  omega

end Sys2Proof.Machine

namespace Sys2Proof.Proofs
open Sys2Proof.Machine

/-- Settles O40. -/
theorem encFramesThePayload : Obligations.EncFramesThePayload :=
  fun _ _ => ⟨exec_enc_eq_delivered, exec_enc_eq_failed⟩

/-- Settles O42: a decode that answers marker and payload has passed `UNFRAME`. -/
theorem decReturnsOnlyWhatAFrameEncloses : Obligations.DecReturnsOnlyWhatAFrameEncloses := by
  intro raw s t mk p h ht
  rw [← frameBytes_eq_frameOf]
  exact (unframe_ok_iff _ _ _ _).mp (unframe_of_exec_dec h ht)

/-- Settles O43. -/
theorem decChecksTheEnvelope : Obligations.DecChecksTheEnvelope := by
  refine ⟨fun s mk p hp => ?_, fun raw s hlen => ?_, fun raw s h8 hmax hpre => ?_, fun s mk p ck last hp hlast => ?_,
    fun s mk p ck hp hck => ?_⟩
  · rw [← frameBytes_eq_frameOf]
    exact exec_dec_frameBytes hp
  · exact exec_dec_of_unframe_error (unframe_of_length hlen)
  · exact exec_dec_of_unframe_error (unframe_of_preamble h8 hmax hpre)
  · exact exec_dec_of_wrong_term hp hlast
  · exact exec_dec_of_wrong_checksum hp hck

/-- Settles O44: ENC returned the frame of a payload that fits, and `UNFRAME` passes it under the same parameters. -/
theorem encThenDecGivesThePayloadBack : Obligations.EncThenDecGivesThePayloadBack := by
  intro p s t f u h hf hcfg
  obtain ⟨hp, rfl⟩ := frame_of_exec_enc h hf
  rw [← hcfg] at hp ⊢
  exact exec_dec_frameBytes hp

/-- Settles O45: the changed bytes are an envelope again, whose terminator is right; under `CHK_BSUM` its checksum byte
differs from the checksum of its marker and payload, under `CHK_ZERO` both are `00`. -/
theorem oneChangedByteIsDetectedByTheSum : Obligations.OneChangedByteIsDetectedByTheSum := by
  intro raw s mk p k b h hk
  obtain ⟨hp, rfl⟩ := (unframe_ok_iff _ _ _ _).mp (unframe_of_exec_dec h rfl)
  obtain ⟨j, rfl⟩ : ∃ j, k = j + 5 := ⟨k - 5, by omega⟩
  rw [frameBytes_eq_envelope, envelope_length]
  refine ⟨fun hbsum hj hb => ?_, fun hzero hj => ?_⟩
  · obtain hj | rfl : j < (mk :: p).length ∨ j = p.length + 1 := by rw [List.length_cons]; omega
    · obtain ⟨mk', p', hset, hlen, henv⟩ := exists_envelope_set_body mk p (checksum s.cfg mk p) term b hj
      rw [envelope_getElem?_body _ _ _ _ hj] at hb
      rw [henv]
      apply exec_dec_of_wrong_checksum (hlen ▸ hp)
      rw [checksum_of_bsum hbsum, checksum_of_bsum hbsum, hset]
      exact (chkBsum_set_ne hj hb).symm
    · rw [envelope_getElem?_checksum] at hb
      rw [envelope_set_checksum]
      exact exec_dec_of_wrong_checksum hp fun hck => hb (congrArg some hck.symm)
  · have hj : j < (mk :: p).length := by rw [List.length_cons]; omega
    obtain ⟨mk', p', -, hlen, henv⟩ := exists_envelope_set_body mk p (checksum s.cfg mk p) term b hj
    refine ⟨mk', p', ?_⟩
    rw [henv, checksum_of_zero hzero, ← checksum_of_zero hzero mk' p', ← frameBytes_eq_envelope]
    exact exec_dec_frameBytes (hlen ▸ hp)

/-- Settles O46: a free function takes the value `00` at this one argument. -/
theorem everyChecksumMeetsThePingVector : Obligations.EveryChecksumMeetsThePingVector := by
  intro k
  cases k with
  | bsum => rfl
  | zero => rfl
  | other id => rw [evalChk]; exact if_pos rfl

/-- Settles O47. -/
theorem defaultChecksumIsTheBiasedSum : Obligations.DefaultChecksumIsTheBiasedSum := toNat_chkBsum

end Sys2Proof.Proofs
end

section
/-! PROOF. The fields of a response (44): the zone bitmask's count (44 R193), the zone-type codes (44 R199) and the
stripped name field (44 R194). -/

namespace Sys2Proof.Machine

/-! ### The population count (44 R193) -/

theorem popcount16_eq_card (v : Half) :
    popcount16 v = ((Finset.range 16).filter fun i => v.getLsbD i = true).card := by
  have hcount : popcount16 v = Nat.count (fun i => v.getLsbD i = true) 16 := by simp [popcount16, Nat.count]
  rw [hcount, Nat.count_eq_card_filter_range]

theorem popcount16_eq_zero_iff (v : Half) : popcount16 v = 0 ↔ v = 0x0000#16 := by
  have hall : popcount16 v = 0 ↔ ∀ i < 16, v.getLsbD i = false := by simp [popcount16]
  rw [hall, BitVec.eq_of_getLsbD_eq_iff]
  simp

theorem popcount16_eq_sixteen_iff (v : Half) : popcount16 v = 16 ↔ v = 0xFFFF#16 := by
  have hall : popcount16 v = 16 ↔ ∀ i < 16, v.getLsbD i = true := by
    simpa [popcount16] using List.countP_eq_length (p := fun i => v.getLsbD i) (l := List.range 16)
  have hones : 0xFFFF#16 = BitVec.allOnes 16 := by decide
  rw [hall, hones, BitVec.eq_of_getLsbD_eq_iff]
  refine forall₂_congr fun i hi => ?_
  rw [BitVec.getLsbD_allOnes, decide_eq_true hi]

/-! ### The zone-type codes (30 R77, 44 R199) -/

/-- The zone types in the order of the enumeration (30 R77). -/
def zoneTypes : List ZoneType := [.switch, .dimmer, .cct, .rgb, .rgbw, .rgbcct]

theorem mem_zoneTypes (type : ZoneType) : type ∈ zoneTypes := by
  cases type <;> decide

theorem ZtCode.codes_eq_map (t : ZtCode) : t.codes = zoneTypes.map (zoneCode t) := rfl

theorem zoneCode_mem_codes (t : ZtCode) (type : ZoneType) : zoneCode t type ∈ t.codes := by
  rw [ZtCode.codes_eq_map]
  exact List.mem_map_of_mem (mem_zoneTypes type)

theorem zoneCode_injective {t : ZtCode} (h : t.codes.Nodup) : Function.Injective (zoneCode t) := by
  rw [ZtCode.codes_eq_map] at h
  exact fun a b => List.inj_on_of_nodup_map h (mem_zoneTypes a) (mem_zoneTypes b)

theorem zoneTypeOf_eq_none_iff (t : ZtCode) (code : Byte) : zoneTypeOf t code = none ↔ code ∉ t.codes := by
  simp [zoneTypeOf, ZtCode.codes, ite_eq_iff]

/-- A byte is read as a zone type only where it is that type's code, whatever the codes. -/
theorem eq_zoneCode_of_zoneTypeOf {t : ZtCode} {code : Byte} {type : ZoneType} (h : zoneTypeOf t code = some type) :
    code = zoneCode t type := by
  unfold zoneTypeOf at h
  repeat' split at h
  all_goals cases h
  all_goals assumption

theorem exists_zoneTypeOf_zoneCode (t : ZtCode) (type : ZoneType) :
    ∃ type', zoneTypeOf t (zoneCode t type) = some type' :=
  Option.ne_none_iff_exists'.mp fun hnone => (zoneTypeOf_eq_none_iff _ _).mp hnone (zoneCode_mem_codes t type)

/-- When the codes are distinct, the type read back is the one whose code was written (44 R199). -/
theorem zoneTypeOf_zoneCode {t : ZtCode} (h : t.codes.Nodup) (type : ZoneType) :
    zoneTypeOf t (zoneCode t type) = some type := by
  obtain ⟨type', hread⟩ := exists_zoneTypeOf_zoneCode t type
  rw [hread, zoneCode_injective h (eq_zoneCode_of_zoneTypeOf hread)]

/-! ### Stripping the name field (44 R194) -/

theorem isFill_iff (b : Byte) : isFill b = true ↔ b = 0x00#8 ∨ b = 0x20#8 := by simp [isFill]

/-- Of bytes without a fill byte at their right end, only the fill bytes after them are removed. -/
theorem strip_append_of_fill {g tail : Bytes} (htail : ∀ b ∈ tail, isFill b = true)
    (hg : ∀ b, g.getLast? = some b → isFill b = false) : strip (g ++ tail) = g := by
  have hkept : g.rdropWhile isFill = g :=
    List.rdropWhile_eq_self_iff.mpr fun hne => by simp [hg _ (List.getLast?_eq_some_getLast hne)]
  rw [strip, List.reverse_append, List.dropWhile_append_of_pos (by simpa using htail)]
  exact hkept

end Sys2Proof.Machine

namespace Sys2Proof.Proofs
open Sys2Proof.Machine

/-- Settles O49. -/
theorem populationCountHasItsExtremes : Obligations.PopulationCountHasItsExtremes := fun v =>
  ⟨popcount16_eq_card v, popcount16_eq_zero_iff v, popcount16_eq_sixteen_iff v,
    (popcount16_le v).trans_lt (by decide)⟩

/-- Settles O51. -/
theorem zoneCodesMapBackToTheirTypes : Obligations.ZoneCodesMapBackToTheirTypes := fun t h =>
  ⟨fun _ type => ⟨eq_zoneCode_of_zoneTypeOf, fun hcode => hcode ▸ zoneTypeOf_zoneCode h type⟩, zoneTypeOf_eq_none_iff t⟩

/-- Settles O52: the removed bytes are fill bytes (`strip_append`), the last one kept is not (`strip_getLast`), and only
one cut has both properties (`strip_append_of_fill`). -/
theorem stripRemovesTheTrailingFill : Obligations.StripRemovesTheTrailingFill := by
  intro f g
  simp only [← not_or, ← isFill_iff, Bool.not_eq_true]
  constructor
  · rintro rfl
    obtain ⟨tail, hf, htail⟩ := strip_append f
    exact ⟨tail, hf, htail, by simpa [Option.all_eq_true] using strip_getLast f⟩
  · rintro ⟨tail, rfl, htail, hg⟩
    exact strip_append_of_fill htail hg

end Sys2Proof.Proofs
end

section
/-! PROOF. Names as UTF-8 text: which byte sequences are well-formed (44 R196), and the code points they stand for
(44 R197). -/

namespace Sys2Proof.Machine

/-! ### The table of sequences (44 R196) -/

theorem inRange_iff (b : Byte) (lo hi : Nat) : inRange b lo hi = true ↔ Within lo b hi := by
  simp [inRange]

/-- Bytes that lie, one by one, in the ranges still due in a sequence. -/
def Continues : List (Nat × Nat) → Bytes → Prop := List.Forall₂ fun range b => inRange b range.1 range.2 = true

/-- The rows' first bytes are pairwise distinct. -/
theorem utf8Rows_disjoint :
    ∀ row ∈ utf8Rows, ∀ row' ∈ utf8Rows, row.lo ≤ row'.hi → row'.lo ≤ row.hi → row = row' := by decide

theorem mem_of_utf8Row {b : Byte} {row : Utf8Row} (h : utf8Row b = some row) :
    row ∈ utf8Rows ∧ Within row.lo b row.hi := by
  rw [utf8Row] at h
  exact ⟨List.mem_of_find?_eq_some h, (inRange_iff ..).mp (List.find?_some h :)⟩

/-- A first byte opens the one row in whose range it lies. -/
theorem utf8Row_eq_some_iff {b : Byte} {row : Utf8Row} :
    utf8Row b = some row ↔ row ∈ utf8Rows ∧ Within row.lo b row.hi := by
  refine ⟨mem_of_utf8Row, fun ⟨hrow, hb⟩ => ?_⟩
  cases hfind : utf8Row b with
  | none => exact absurd ((inRange_iff b row.lo row.hi).mpr hb) (List.find?_eq_none.mp hfind row hrow)
  | some row' =>
    obtain ⟨hrow', hb'⟩ := mem_of_utf8Row hfind
    rw [utf8Rows_disjoint row hrow row' hrow' (hb.1.trans hb'.2) (hb'.1.trans hb.2)]

/-- A sequence of the table is a first byte and the bytes that its row asks for. -/
theorem utf8Sequence_cons_iff (b : Byte) (ts : Bytes) :
    Utf8Sequence (b :: ts) ↔ ∃ row, utf8Row b = some row ∧ Continues row.conts ts := by
  simp only [utf8Row_eq_some_iff, inRange_iff, Continues, utf8Rows, List.mem_cons, List.not_mem_nil, or_false, and_assoc,
    or_and_right, exists_or, exists_eq_left]
  match ts with
  | [] => simp [Utf8Sequence]
  | [b1] => simp [Utf8Sequence, and_assoc]
  | [b1, b2] => simp [Utf8Sequence, ← BitVec.toNat_inj]; omega
  | [b1, b2, b3] => simp [Utf8Sequence, ← BitVec.toNat_inj]; omega
  | b1 :: b2 :: b3 :: b4 :: rest => simp [Utf8Sequence]

/-- Every well-formed rest is the end of the open sequence and a concatenation of whole ones. -/
theorem exists_parts_of_utf8Scan {pending : List (Nat × Nat)} {s : Bytes} (h : utf8Scan pending s = true) :
    ∃ ts parts, s = ts ++ List.flatten parts ∧ Continues pending ts ∧ ∀ q ∈ parts, Utf8Sequence q := by
  induction s generalizing pending with
  | nil =>
    obtain rfl : pending = [] := by simpa [utf8Scan] using h
    exact ⟨[], [], rfl, .nil, by simp⟩
  | cons b rest ih =>
    cases pending with
    | nil =>
      rw [utf8Scan] at h
      split at h
      next row hrow =>
        obtain ⟨ts, parts, rfl, hts, hparts⟩ := ih h
        have hq : Utf8Sequence (b :: ts) := (utf8Sequence_cons_iff b ts).mpr ⟨row, hrow, hts⟩
        exact ⟨[], (b :: ts) :: parts, rfl, .nil, List.forall_mem_cons.mpr ⟨hq, hparts⟩⟩
      · cases h
    | cons range more =>
      obtain ⟨hb, hrest⟩ : inRange b range.1 range.2 = true ∧ utf8Scan more rest = true := by simpa [utf8Scan] using h
      obtain ⟨ts, parts, rfl, hts, hparts⟩ := ih hrest
      exact ⟨b :: ts, parts, rfl, .cons hb hts, hparts⟩

/-! ### The text of a name (44 R197) -/

/-- The code points of the rest of a name behind a sequence of which `pending` is due: it is complete when nothing is. -/
def textDue (pending : List (Nat × Nat)) (acc : Nat) (s : Bytes) : Option (List Nat) :=
  if pending.isEmpty then (nameText s).map (acc :: ·) else textScan pending acc s

theorem textScan_nil_cons (acc : Nat) (b : Byte) (s : Bytes) :
    textScan [] acc (b :: s) = (utf8Row b).bind fun row => textDue row.conts (b.toNat % 2 ^ row.bits) s := by
  rw [textScan]
  cases utf8Row b <;> rfl

/-- A byte after the first adds its low six bits. -/
def pushBits (acc : Nat) (b : Byte) : Nat := acc * 64 + b.toNat % 64

theorem textScan_cons_cons (range : Nat × Nat) (more : List (Nat × Nat)) (acc : Nat) (b : Byte) (s : Bytes) :
    textScan (range :: more) acc (b :: s) =
      if inRange b range.1 range.2 then textDue more (pushBits acc b) s else none := rfl

/-- The end of an open sequence gives its bits, and the rest its own text. -/
theorem textDue_append {pending : List (Nat × Nat)} {ts : Bytes} (h : Continues pending ts) (acc : Nat) (s : Bytes) :
    textDue pending acc (ts ++ s) = (nameText s).map (ts.foldl pushBits acc :: ·) := by
  induction h generalizing acc with
  | nil => rfl
  | cons hb _ ih => exact ((textScan_cons_cons _ _ _ _ _).trans (if_pos hb)).trans (ih _)

/-- There is a text exactly where the bytes are well-formed. -/
theorem isSome_textScan (pending : List (Nat × Nat)) (acc : Nat) (s : Bytes) :
    (textScan pending acc s).isSome = utf8Scan pending s := by
  induction s generalizing pending acc with
  | nil => cases pending <;> rfl
  | cons b rest ih =>
    have hdue : ∀ pending acc, (textDue pending acc rest).isSome = utf8Scan pending rest := by
      intro pending acc
      cases pending with
      | nil => exact (Option.isSome_map ..).trans (ih [] 0)
      | cons range more => exact ih (range :: more) acc
    cases pending with
    | nil =>
      rw [textScan_nil_cons, utf8Scan]
      cases utf8Row b with
      | none => rfl
      | some row => exact hdue row.conts _
    | cons range more =>
      rw [textScan_cons_cons, utf8Scan]
      cases inRange b range.1 range.2 with
      | false => rfl
      | true => exact hdue more _

/-- Shifting by six and setting the six low bits adds a digit. -/
theorem shiftLeft_six_or (acc : Nat) (b : Byte) : acc <<< 6 ||| (b.extractLsb' 0 6).toNat = pushBits acc b := by
  have hlt : (b.extractLsb' 0 6).toNat < 2 ^ 6 := BitVec.isLt _
  rw [← Nat.shiftLeft_add_eq_or_of_lt hlt, Nat.shiftLeft_eq, BitVec.extractLsb'_toNat, pushBits]
  rfl

/-- How many bits of the first byte the code point takes, by the number of bytes after it. -/
theorem utf8Rows_bits : ∀ row ∈ utf8Rows, [7, 5, 4, 3][row.conts.length]? = some row.bits := by decide

/-- The formulas of 44 R197 take the first byte's bits and then six bits of each byte after it. -/
theorem codePoint_cons {b : Byte} {ts : Bytes} {row : Utf8Row} (hrow : utf8Row b = some row)
    (hts : Continues row.conts ts) : codePoint (b :: ts) = ts.foldl pushBits (b.toNat % 2 ^ row.bits) := by
  have hbits := utf8Rows_bits row (mem_of_utf8Row hrow).1
  rw [hts.length_eq] at hbits
  have hfirst : b.toNat % 2 ^ row.bits = (b.extractLsb' 0 row.bits).toNat := by
    rw [BitVec.extractLsb'_toNat, Nat.shiftRight_zero]
  match ts with
  | [] =>
    have hascii : Utf8Sequence [b] := (utf8Sequence_cons_iff b []).mpr ⟨row, hrow, hts⟩
    rw [← Option.some.inj hbits]
    exact (Nat.mod_eq_of_lt (Nat.lt_succ_of_le hascii.2)).symm
  | [b1] | [b1, b2] | [b1, b2, b3] =>
    simp only [List.length, Nat.reduceAdd, List.getElem?_cons_succ, List.getElem?_cons_zero, Option.some.injEq] at hbits
    rw [hfirst, ← hbits]
    simp only [codePoint, List.foldl, ← shiftLeft_six_or, Nat.shiftLeft_or_distrib, ← Nat.shiftLeft_add, Nat.reduceAdd]

/-- A sequence of the table in front of a name gives its code point in front of the name's text. -/
theorem nameText_append {q : Bytes} (hq : Utf8Sequence q) (s : Bytes) :
    nameText (q ++ s) = (nameText s).map (codePoint q :: ·) := by
  cases q with
  | nil => exact hq.elim
  | cons b ts =>
    obtain ⟨row, hrow, hts⟩ := (utf8Sequence_cons_iff b ts).mp hq
    rw [codePoint_cons hrow hts, ← textDue_append hts, List.cons_append, nameText, textScan_nil_cons, hrow]
    rfl

theorem nameText_flatten {parts : List Bytes} (h : ∀ q ∈ parts, Utf8Sequence q) :
    nameText parts.flatten = some (parts.map codePoint) := by
  induction parts with
  | nil => rfl
  | cons q parts ih =>
    obtain ⟨hq, hparts⟩ := List.forall_mem_cons.mp h
    rw [List.flatten_cons, nameText_append hq, ih hparts]
    rfl

theorem isSome_nameText (s : Bytes) : (nameText s).isSome = utf8WellFormed s := isSome_textScan [] 0 s

/-- Well-formed names are the concatenations of sequences of the table (44 R196). -/
theorem utf8WellFormed_iff (s : Bytes) :
    utf8WellFormed s = true ↔ ∃ parts : List Bytes, s = parts.flatten ∧ ∀ q ∈ parts, Utf8Sequence q := by
  constructor
  · intro h
    obtain ⟨ts, parts, rfl, hts, hparts⟩ := exists_parts_of_utf8Scan h
    obtain rfl := List.forall₂_nil_left_iff.mp hts
    exact ⟨parts, rfl, hparts⟩
  · rintro ⟨parts, rfl, hparts⟩
    rw [← isSome_nameText, nameText_flatten hparts]
    rfl

end Sys2Proof.Machine

namespace Sys2Proof.Proofs
open Sys2Proof.Machine

/-- Settles O53. -/
theorem wellFormedNamesAreConcatenations : Obligations.WellFormedNamesAreConcatenations := utf8WellFormed_iff

/-- Settles O54. -/
theorem nameTextIsTheCodePoints : Obligations.NameTextIsTheCodePoints :=
  ⟨fun _ => nameText_flatten, isSome_nameText⟩

end Sys2Proof.Proofs
end

section
/-! PROOF. The response parsers (44): what RSPNZ and RSPZI answer on a frame, and the failures they report (44 R191,
R192, R195). -/

namespace Sys2Proof.Machine

/-! ### Both parsers: the envelope first (44 R191) -/

section
variable {extract : Config → Bytes → Except DecCause Output} {s : State}

/-- On a frame of a payload that fits, a parser ends as its extraction from the payload ends. -/
theorem parseResponse_frameOf {p : Bytes} (mk : Byte) (hp : p.length ≤ s.cfg.maxPay) :
    parseResponse s.cfg extract (frameOf s.cfg.chk mk p) = (extract s.cfg p).mapError .dec :=
  parseResponse_of_unframe ((unframe_ok_iff _ _ _ _).mpr ⟨hp, (frameBytes_eq_frameOf _ _ _).symm⟩)

theorem answer_parseResponse_ok {p : Bytes} {o : Output} (mk : Byte) (hp : p.length ≤ s.cfg.maxPay)
    (h : extract s.cfg p = .ok o) :
    answer (parseResponse s.cfg extract (frameOf s.cfg.chk mk p)) s = .next { s with result := some (.ok o) } := by
  rw [parseResponse_frameOf mk hp, h]
  rfl

theorem answer_parseResponse_error {p : Bytes} {e : DecCause} (mk : Byte) (hp : p.length ≤ s.cfg.maxPay)
    (h : extract s.cfg p = .error e) :
    answer (parseResponse s.cfg extract (frameOf s.cfg.chk mk p)) s = .next (failed (.dec e) s) := by
  rw [parseResponse_frameOf mk hp, h]
  rfl

/-- Where DEC fails, `UNFRAME` has failed, and a parser passes that failure on. -/
theorem answer_parseResponse_of_exec_dec {raw : Bytes} {e : Err} (h : exec (.dec raw) s = .next (failed e s)) :
    answer (parseResponse s.cfg extract raw) s = .next (failed e s) := by
  cases hu : unframe s.cfg raw with
  | ok q => rw [exec_dec_of_unframe_ok hu] at h; simp [failed] at h
  | error e' =>
    rw [parseResponse_of_error hu, ← h, exec_dec_of_unframe_error hu]
    rfl

end

/-! ### The fields in a payload (44 R192, R195) -/

section
variable {c : Config} {p : Bytes}

theorem zoneCount_of_bytes {b0 b1 : Byte} (h0 : p[c.nzMaskOff]? = some b0) (h1 : p[c.nzMaskOff + 1]? = some b1) :
    zoneCount c p = .ok (.number (popcount16 (unle16 b0 b1))) := by
  obtain ⟨hlen, -⟩ := List.getElem?_eq_some_iff.mp h1
  rw [zoneCount, if_neg (by omega), List.getD_eq_getElem?_getD, List.getD_eq_getElem?_getD, h0, h1]
  rfl

theorem zoneCount_of_short (h : p.length < c.nzMaskOff + 2) : zoneCount c p = .error .dShort := if_pos h

theorem zoneInfo_of_short (h : p.length < c.ziTypeOff + 1 ∨ p.length < c.ziNameOff + c.nameLen) :
    zoneInfo c p = .error .dShort := if_pos (lt_max_iff.mpr h)

section
variable {code : Byte} (hname : c.ziNameOff + c.nameLen ≤ p.length) (hcode : p[c.ziTypeOff]? = some code)
include hname hcode

theorem zoneInfo_of_unknown_code (h : zoneTypeOf c.ztCode code = none) : zoneInfo c p = .error .dZtype := by
  obtain ⟨htype, -⟩ := List.getElem?_eq_some_iff.mp hcode
  rw [zoneInfo, if_neg (by simp; omega), List.getD_eq_getElem?_getD, hcode, Option.getD_some, h]

/-- Behind a known type, only the stripped name can fail. -/
theorem zoneInfo_of_known_code {type : ZoneType} (h : zoneTypeOf c.ztCode code = some type) :
    zoneInfo c p =
      if utf8WellFormed (strip (nameField c p)) then .ok (.zoneInfo type (strip (nameField c p)))
      else .error .dUtf8 := by
  obtain ⟨htype, -⟩ := List.getElem?_eq_some_iff.mp hcode
  rw [zoneInfo, if_neg (by simp; omega), List.getD_eq_getElem?_getD, hcode, Option.getD_some, h]

end

end

end Sys2Proof.Machine

namespace Sys2Proof.Proofs
open Sys2Proof.Machine

/-- Settles O48. -/
theorem rspnzCountsThePresentZones : Obligations.RspnzCountsThePresentZones := by
  refine ⟨fun s mk p b0 b1 hp h0 h1 => ?_, fun s mk p hp hshort => ?_, fun raw s e h => ?_⟩
  · have hcount := zoneCount_of_bytes h0 h1
    rw [popcount16_eq_card] at hcount
    simp only [BitVec.getLsbD, unle16_toNat] at hcount
    exact answer_parseResponse_ok mk hp hcount
  · exact answer_parseResponse_error mk hp (zoneCount_of_short hshort)
  · exact answer_parseResponse_of_exec_dec h

/-- Settles O50. -/
theorem rspziReturnsTypeAndName : Obligations.RspziReturnsTypeAndName := by
  refine ⟨fun s mk p type parts hc hp _ hname hcode hstrip hparts => ?_, fun raw s e h => ?_,
    fun s mk p hp hshort => ?_, fun s mk p code hp _ hname hcode hunknown => ?_,
    fun s mk p type hp _ hname hcode hbad => ?_⟩
  · obtain ⟨-, -, hcodes, -⟩ := hc
    have hutf8 : utf8WellFormed parts.flatten = true := (utf8WellFormed_iff _).mpr ⟨parts, rfl, hparts⟩
    apply answer_parseResponse_ok mk hp
    rw [zoneInfo_of_known_code hname hcode (zoneTypeOf_zoneCode hcodes type), nameField, hstrip, if_pos hutf8]
  · exact answer_parseResponse_of_exec_dec h
  · exact answer_parseResponse_error mk hp (zoneInfo_of_short hshort)
  · exact answer_parseResponse_error mk hp
      (zoneInfo_of_unknown_code hname hcode ((zoneTypeOf_eq_none_iff _ _).mpr hunknown))
  · rw [← utf8WellFormed_iff] at hbad
    apply answer_parseResponse_error mk hp
    obtain ⟨type', htype'⟩ := exists_zoneTypeOf_zoneCode s.cfg.ztCode type
    rw [zoneInfo_of_known_code hname hcode htype', nameField, if_neg hbad]

end Sys2Proof.Proofs
end

section
/-! PROOF. Errors (60): the status and cause codes of a result (60 R211), which errors an operation can return
(60 R214), the state they leave (60 R218), and the idle step (60 R226). -/

/-! ### Status and cause codes (60 R211 to R213) -/

namespace Sys2Proof.Machine

@[simp] theorem Result.status_ok (o : Output) : (Result.ok o).status = 0#2 := rfl
@[simp] theorem Result.status_arg (c : ArgCause) : (Result.err (.arg c)).status = 1#2 := rfl
@[simp] theorem Result.status_dec (c : DecCause) : (Result.err (.dec c)).status = 2#2 := rfl

@[simp] theorem Result.isOk_ok (o : Output) : (Result.ok o).isOk = true := rfl
@[simp] theorem Result.isOk_err (e : Err) : (Result.err e).isOk = false := rfl

@[simp] theorem Result.causeCode_arg (c : ArgCause) : (Result.err (.arg c)).causeCode = c.code := rfl
@[simp] theorem Result.causeCode_dec (c : DecCause) : (Result.err (.dec c)).causeCode = c.code := rfl

theorem ArgCause.code_ne_zero (c : ArgCause) : c.code ≠ 0#3 := by
  cases c <;> decide

theorem DecCause.code_ne_zero (c : DecCause) : c.code ≠ 0#3 := by
  cases c <;> decide

end Sys2Proof.Machine

namespace Sys2Proof.Proofs
open Sys2Proof.Machine

/-- Settles O26: a success and each kind of error have a status of their own. -/
theorem statusCodesTellTheKinds : Obligations.StatusCodesTellTheKinds := by
  intro r
  match r with
  | .ok o => simp
  | .err (.arg c) => simpa using c.code_ne_zero
  | .err (.dec c) => simpa using c.code_ne_zero

end Sys2Proof.Proofs

/-! ### The state after an error, and the idle step (60 R218, R226) -/

namespace Sys2Proof.Machine

/-- An operation that fails does not advance `SEQ`, whichever it is (60 R218). -/
theorem State.complete_err (adv : Bool) (e : Err) (s : State) : s.complete adv (.err e) = failed e s := by
  simp [State.complete, State.finish, failed]

end Sys2Proof.Machine

namespace Sys2Proof.Proofs
open Sys2Proof.Machine

/-- Settles O22: an operation ends in `State.complete`, which for an error is `failed`. -/
theorem errorsLeaveTheStateUnchanged : Obligations.ErrorsLeaveTheStateUnchanged := by
  intro i s t e h he
  obtain ⟨r, rfl⟩ := eq_complete_of_exec h
  obtain rfl : r = .err e := by simpa using he
  exact State.complete_err (advances i) e s

/-- Settles O11. -/
theorem idleStepHoldsTheState : Obligations.IdleStepHoldsTheState :=
  fun _ h => step_idle h

end Sys2Proof.Proofs

/-! ### Computations whose failures are listed -/

namespace Sys2Proof.Machine

/-- If the computation fails, then with one of the listed errors. -/
def FailsWithin {ε α : Type} (x : Except ε α) (es : List ε) : Prop := ∀ e, x = .error e → e ∈ es

namespace FailsWithin

variable {ε α β : Type} {x : Except ε α} {es es' : List ε}

theorem ok (a : α) : FailsWithin (.ok a) es := by
  intro e h
  cases h

theorem error {e : ε} (he : e ∈ es) : FailsWithin (.error e : Except ε α) es := by
  intro e' h
  cases h
  exact he

theorem mono (h : FailsWithin x es) (hsub : es ⊆ es') : FailsWithin x es' :=
  fun e he => hsub (h e he)

/-- A check that reports a listed error, with the rest behind it. -/
theorem check {p : Prop} [Decidable p] {e : ε} (he : e ∈ es) (h : FailsWithin x es) :
    FailsWithin (if p then .error e else x) es := by
  split
  · exact error he
  · exact h

theorem map (h : FailsWithin x es) (f : α → β) : FailsWithin (x.map f) es := by
  cases x with
  | error e => exact error (h e rfl)
  | ok a => exact ok (f a)

theorem bind {f : α → Except ε β} (h : FailsWithin x es) (hf : ∀ a, FailsWithin (f a) es) :
    FailsWithin (x.bind f) es := by
  cases x with
  | error e => exact error (h e rfl)
  | ok a => exact hf a

end FailsWithin

/-! ### The causes of `E_ARG` (40 R101 to R106, 60 R214) -/

theorem validate_failsWithin (lo hi : Int) (a : Arg) : FailsWithin (validate lo hi a) [.aType, .aRange] := by
  cases a with
  | nonInt => exact .error (by simp)
  | int v => exact .check (by simp) (.ok v)

theorem vBrt_failsWithin (a : Arg) : FailsWithin (vBrt a) [.aType, .aRange, .aZero] := by
  cases a with
  | nonInt => exact .error (by simp)
  | int v => exact .check (by simp) (.check (by simp) (.ok v))

theorem vRgbw_failsWithin (r g b w : Arg) : FailsWithin (vRgbw r g b w) [.aType, .aRange, .aAllZero] := by
  have hcomp (a : Arg) : FailsWithin (vComp a) [.aType, .aRange, .aAllZero] :=
    (validate_failsWithin 0 255 a).mono (by simp)
  exact .bind (hcomp r) fun _ => .bind (hcomp g) fun _ => .bind (hcomp b) fun _ => .bind (hcomp w) fun _ =>
    .check (by simp) (.ok _)

theorem encPayload_failsWithin (input : Bytes) (c : Config) : FailsWithin (encPayload input c) [.aLen] :=
  .check (by simp) (.ok input)

theorem powerPayload_failsWithin (onOff : Byte) (zone : Arg) :
    FailsWithin (powerPayload onOff zone) [.aType, .aRange] := by
  rw [powerPayload_eq]
  exact (validate_failsWithin 1 16 zone).map _

theorem zoneInfoPayload_failsWithin (c : Config) (zone : Arg) :
    FailsWithin (zoneInfoPayload c zone) [.aType, .aRange] := by
  rw [zoneInfoPayload_eq]
  exact (validate_failsWithin 1 16 zone).map _

/-- The zone adds no cause to those of the other operand. -/
theorem levelPayload_failsWithin (opcode : Byte) {v : Arg → Except ArgCause Int} (zone : Arg) {value : Arg}
    {causes : List ArgCause} (hsub : [.aType, .aRange] ⊆ causes) (hv : FailsWithin (v value) causes) :
    FailsWithin (levelPayload opcode v zone value) causes := by
  rw [levelPayload_eq]
  exact ((validate_failsWithin 1 16 zone).mono hsub).bind fun _ => hv.map _

theorem rgbwPayload_failsWithin (c : Config) (zone r g b w : Arg) :
    FailsWithin (rgbwPayload c zone r g b w) [.aType, .aRange, .aAllZero] := by
  rw [rgbwPayload_eq]
  exact ((validate_failsWithin 1 16 zone).mono (by simp)).bind fun _ => (vRgbw_failsWithin r g b w).map _

/-! ### The causes of `E_DEC` (43 R169, 44 R192, R195, 60 R214) -/

/-- The causes that `UNFRAME` reports (43 R169). -/
def envelopeCauses : List DecCause := [.dLen, .dPreamble, .dTerm, .dChk]

theorem unframe_failsWithin (c : Config) (raw : Bytes) : FailsWithin (unframe c raw) envelopeCauses := by
  unfold unframe
  exact .check (by decide) <| .check (by decide) <| .check (by decide) <| .check (by decide) (.ok _)

theorem decodeFrame_failsWithin (c : Config) (raw : Bytes) :
    FailsWithin (decodeFrame c raw) (envelopeCauses.map .dec) := by
  unfold decodeFrame
  split
  · exact .ok _
  next e hu => exact .error (List.mem_map_of_mem (unframe_failsWithin c raw e hu))

theorem zoneCount_failsWithin (c : Config) (p : Bytes) : FailsWithin (zoneCount c p) [.dShort] :=
  .check (by simp) (.ok _)

theorem zoneInfo_failsWithin (c : Config) (p : Bytes) : FailsWithin (zoneInfo c p) [.dShort, .dZtype, .dUtf8] := by
  refine .check (by simp) ?_
  split
  · exact .error (by simp)
  · simp only
    split
    · exact .ok _
    · exact .error (by simp)

/-- A parser reports the envelope's failures and those of its own extraction (44 R191). -/
theorem parseResponse_failsWithin {c : Config} {extract : Config → Bytes → Except DecCause Output} {raw : Bytes}
    {causes : List DecCause} (hex : ∀ p, FailsWithin (extract c p) causes) :
    FailsWithin (parseResponse c extract raw) ((envelopeCauses ++ causes).map .dec) := by
  cases hu : unframe c raw with
  | error e =>
    rw [parseResponse_of_error hu]
    exact .error (List.mem_map_of_mem (List.mem_append_left _ (unframe_failsWithin c raw e hu)))
  | ok q =>
    rw [parseResponse_of_unframe hu]
    cases hq : extract c q.2 with
    | error e => exact .error (List.mem_map_of_mem (List.mem_append_right _ (hex q.2 e hq)))
    | ok o => exact .ok o

/-! ### The errors of an operation (60 R214) -/

section
variable {s t : State} {e : Err}

/-- A command's error is the failure of its marshalling. -/
theorem mem_of_command_err {f : Mode} {payload : Except ArgCause Bytes} {causes : List ArgCause}
    (hp : FailsWithin payload causes) (h : command f payload s = .next t) (he : t.result = some (.err e)) :
    e ∈ causes.map .arg := by
  obtain ⟨c, hc, rfl⟩ | ⟨p, -, -, rfl⟩ | ⟨p, -, -, rfl⟩ := command_cases h
  · cases he
    exact List.mem_map_of_mem (hp c hc)
  · cases he
  · cases he

/-- The error of DEC or a parser is the failure of its computation. -/
theorem mem_of_answer_err {x : Except Err Output} {es : List Err} (hx : FailsWithin x es) (h : answer x s = .next t)
    (he : t.result = some (.err e)) : e ∈ es := by
  obtain ⟨o, -, rfl⟩ | ⟨e', hx', rfl⟩ := answer_cases h
  · cases he
  · cases he
    exact hx e hx'

end

end Sys2Proof.Machine

namespace Sys2Proof.Proofs
open Sys2Proof.Machine

/-- Settles O23: the error of each operation is a failure of its validators or of its parser. -/
theorem operationsReturnOnlyTheirErrors : Obligations.OperationsReturnOnlyTheirErrors := by
  intro i s t e h he
  cases i with
  | seqrd | seqadv => cases h; cases he
  | ping f | getnz f | mpwron f | mpwroff f => exact mem_of_command_err (causes := []) (.ok _) h he
  | pwron f zone | pwroff f zone => exact mem_of_command_err (powerPayload_failsWithin _ zone) h he
  | brt f zone level =>
    exact mem_of_command_err (levelPayload_failsWithin _ zone (by simp) (vBrt_failsWithin level)) h he
  | temp f zone value =>
    exact mem_of_command_err (levelPayload_failsWithin _ zone (by simp) (validate_failsWithin 0 255 value)) h he
  | rgbw f zone r g b w => exact mem_of_command_err (rgbwPayload_failsWithin s.cfg zone r g b w) h he
  | getzi f zone => exact mem_of_command_err (zoneInfoPayload_failsWithin s.cfg zone) h he
  | enc input =>
    rw [exec_enc] at h
    exact mem_of_command_err (encPayload_failsWithin input s.cfg) h he
  | dec input => exact mem_of_answer_err (decodeFrame_failsWithin s.cfg input) h he
  | rspnz input => exact mem_of_answer_err (parseResponse_failsWithin (zoneCount_failsWithin s.cfg)) h he
  | rspzi input => exact mem_of_answer_err (parseResponse_failsWithin (zoneInfo_failsWithin s.cfg)) h he

end Sys2Proof.Proofs
end

section
/-! PROOF. Reset and hazards (70): every operation ends with a result (70 R251), and what a reset leaves (70 R240,
R241). -/

namespace Sys2Proof.Proofs
open Sys2Proof.Machine

/-- Settles O18: every operation ends in `State.complete` (`exec_completes`), whose result port is occupied. -/
theorem everyOperationAnswersWithAResult : Obligations.EveryOperationAnswersWithAResult := by
  intro i s
  obtain ⟨result, hexec⟩ := exec_completes i
  exact ⟨_, _, hexec s, State.complete_result _ _ _⟩

/-- Settles O12. -/
theorem resetInputRestoresTheResetState : Obligations.ResetInputRestoresTheResetState :=
  fun _ _ hin => step_reset hin

end Sys2Proof.Proofs
end
